-- ==== Sys2Proof/Word.lean ====
section
/-! DEFINITION. The word types of CORE (00_scope.md R5, R7, R8): every value is unsigned. -/

namespace Sys2Proof

/-- A memory cell, a V register, a timer, an 8-bit immediate `nn` (R5). -/
abbrev Byte := BitVec 8

/-- An opcode, and the storage width of I, PC and a stack entry (R5). -/
abbrev Word := BitVec 16

/-- The number of a general register, the `x` or `y` field (R91). -/
abbrev Reg := BitVec 4

/-- The 4-bit immediate `n` (R91). -/
abbrev Nibble := BitVec 4

/-- The 12-bit address immediate `nnn` (R91). -/
abbrev Addr := BitVec 12

/-- The number of VF, the flag register V[15] (R21). -/
abbrev Reg.vf : Reg := 0xF#4

end Sys2Proof
end

