-- ==== Sys2Proof/Config.lean ====
section
/-! DEFINITION. What is fixed for the machine: the constants of 00_scope.md R5, the parameters of R6 that are
values (FONT, PC_RESET), and the one free value, the random byte. The other parameters of R6 are fixed at their
defaults in the definitions their rules govern; notes/assumptions/ has an entry for each. -/

namespace Sys2Proof.Config

/-- MEM_SIZE (R5): addresses 0x000..0xFFF. -/
@[simp] abbrev memSize : Nat := 4096

/-- STACK_DEPTH (R5). -/
@[simp] abbrev stackDepth : Nat := 16

/-- NUM_KEYS (R5). -/
@[simp] abbrev numKeys : Nat := 16

/-- DISPLAY_WIDTH (R5). -/
@[simp] abbrev displayWidth : Nat := 64

/-- DISPLAY_HEIGHT (R5). -/
@[simp] abbrev displayHeight : Nat := 32

/-- FB_SIZE (R5): one cell per pixel. -/
@[simp] abbrev fbSize : Nat := 2048

/-- GLYPH_BYTES (R5), the multiplier of Fx29. -/
@[simp] abbrev glyphBytes : Nat := 5

/-- PROG_BASE (R5): the address of the first ROM byte. -/
@[simp] abbrev progBase : Nat := 0x200

/-- PC_RESET (R6). UNVERIFIED: decision D4 of the spec (log 4), unsafe. -/
def pcReset : Word := 0x0200#16

/-- FONT (R6, R31): 16 glyphs of 5 bytes at 0x000..0x04F, glyph `d` at `5 * d`.
PRESUMED: the bytes are the spec's default from general knowledge, D5 and G1 (log 5), unsafe. -/
def font : List Byte :=
  [0xF0, 0x90, 0x90, 0x90, 0xF0] ++ [0x20, 0x60, 0x20, 0x20, 0x70] ++
  [0xF0, 0x10, 0xF0, 0x80, 0xF0] ++ [0xF0, 0x10, 0xF0, 0x10, 0xF0] ++
  [0x90, 0x90, 0xF0, 0x10, 0x10] ++ [0xF0, 0x80, 0xF0, 0x10, 0xF0] ++
  [0xF0, 0x80, 0xF0, 0x90, 0xF0] ++ [0xF0, 0x10, 0x20, 0x40, 0x40] ++
  [0xF0, 0x90, 0xF0, 0x90, 0xF0] ++ [0xF0, 0x90, 0xF0, 0x10, 0xF0] ++
  [0xF0, 0x90, 0xF0, 0x90, 0x90] ++ [0xE0, 0x90, 0xE0, 0x90, 0xE0] ++
  [0xF0, 0x80, 0x80, 0x80, 0xF0] ++ [0xE0, 0x90, 0x90, 0x90, 0xE0] ++
  [0xF0, 0x80, 0xF0, 0x80, 0xF0] ++ [0xF0, 0x80, 0xF0, 0x80, 0x80]

/-- What the byte at address `a` holds after a reset with no ROM (R30, R37): FONT at 0x000..0x04F, zero above.
It is what an address that memory does not list reads as (log 31). -/
def resetByte (a : Nat) : Byte := font.getD a 0x00#8

/-- The FREE VALUE of the machine: the 8 bits the `rnd` input presents at its `k`-th sample (R12, R210, R256, D16).
It has no body, so nothing can be proved of what it is (log 16), safe. -/
opaque rnd8 : Nat → Byte

end Sys2Proof.Config
end

