-- ==== Sys2Proof/Machine/State.lean ====
section
/-! DEFINITION. The state of CORE, 10_state.md R20 to R36, as plain data, and its value after reset, R37. -/

namespace Sys2Proof.Machine

/-- MEM (R30) as the cells whose byte differs from what reset leaves there: addresses strictly rising, each below
4096, no cell equal to `Config.resetByte` of its address (`Memory.wf`). -/
abbrev Memory := List Host.Cell

/-- One row of the framebuffer, 64 cells: bit `cx` is the pixel in column `cx` (R33). -/
abbrev FbRow := BitVec 64

/-- FB (R33): 32 rows; cell `p = cy * 64 + cx` is bit `cx` of row `cy` (log 27). -/
abbrev Framebuffer := Vector FbRow 32

/-- FCAUSE (R35, R271) as an enumeration, which R271 allows. -/
inductive FaultCause where
  /-- Code 0: no fault. -/
  | none
  /-- Code 1: the opcode matches no row of R95 (R272). -/
  | unknownOpcode
  /-- Code 2: 2nnn with SP = 16 (R273). -/
  | stackOverflow
  /-- Code 3: 00EE with SP = 0 (R274). -/
  | stackUnderflow
  deriving DecidableEq, Repr

/-- Everything R20 gives CORE, and one field of the model's own, `rndIndex`. -/
structure State where
  /-- MEM, 4096 bytes (R30). -/
  mem : Memory
  /-- V[0]..V[15], VF = V[15] (R21, R22). -/
  v : Vector Byte 16
  /-- I, stored in 16 bits, 12 significant (R24). -/
  i : Word
  /-- PC, stored in 16 bits, 12 significant (R25). -/
  pc : Word
  /-- STACK[0]..STACK[15] (R26). -/
  stack : Vector Word 16
  /-- SP, the number of live stack entries, 0 to 16 (R27). -/
  sp : Fin 17
  /-- DT, the delay timer (R28). -/
  dt : Byte
  /-- ST, the sound timer (R29). -/
  st : Byte
  /-- KEY, bit `k` is 1 when key `k` is held down (R32). -/
  key : BitVec 16
  /-- FB (R33). -/
  fb : Framebuffer
  /-- DF, the draw flag (R34). -/
  df : Bool
  /-- HALT (R35). -/
  halt : Bool
  /-- FCAUSE (R35). -/
  fcause : FaultCause
  /-- FOPCODE (R35). -/
  fopcode : Word
  /-- FPC (R35). -/
  fpc : Word
  /-- The MODEL's own: how many bytes the `rnd` input has given; it only selects the next free value (log 16). -/
  rndIndex : Nat
  deriving DecidableEq, Repr

/-- A stop of the machine that is no state. The spec's three faults are NOT here: each is a next state with the
fault record written, as R278 describes fault entry (log 28). -/
inductive Fault where
  /-- An address above 0xFFF, the alternative that D1 and D3 set aside. NO definition of this model raises it: the
  spec reduces every address modulo 4096 (R62). Safe: it could only stop a run. -/
  | addressOutOfRange (addr : Nat)
  deriving DecidableEq, Repr

/-- A meaning the model does not give. -/
inductive Refusal where
  /-- Raised by an arm of `exec` whose instruction has no meaning yet, and by nothing else; no arm raises it now.
  Safe: the run stops. -/
  | notModelled (mnemonic : String)
  deriving DecidableEq, Repr

/-- The state after reset with no ROM, which is also power-on (R37, R310, R311). PC is D4's (log 4), the fontset
D5's (log 5), DF, KEY, the timers and the fault record D20's (log 20). The model's own `rndIndex` starts at 0, a
DESIGN CHOICE nothing may rest on (log 16). -/
def State.reset : State where
  mem := []
  v := Vector.replicate 16 0x00#8
  i := 0x0000#16
  pc := Config.pcReset
  stack := Vector.replicate 16 0x0000#16
  sp := 0
  dt := 0x00#8
  st := 0x00#8
  key := 0x0000#16
  fb := Vector.replicate 32 0#64
  df := false
  halt := false
  fcause := .none
  fopcode := 0x0000#16
  fpc := 0x0000#16
  rndIndex := 0

end Sys2Proof.Machine
end

