-- ==== Sys2Proof/Machine/Ops.lean ====
section
/-! DEFINITION. The named operations over memory, registers, stack, timers and framebuffer; fault entry, the one
shared operation R278; fetch and the timer tick. There is no return from a fault (R279). -/

namespace Sys2Proof.Machine

/-! ### Memory (20_memory.md) -/

/-- The canonical form of memory: addresses strictly rising and inside the array (R38 a), and no cell that holds
what reset leaves there. -/
abbrev Memory.wf (m : Memory) : Prop :=
  m.Pairwise (fun c d => c.1 < d.1) ∧ ∀ c ∈ m, c.1 < Config.memSize ∧ c.2 ≠ Config.resetByte c.1

/-- The byte held at an address of the array. -/
def Memory.read : Memory → Nat → Byte
  | [], a => Config.resetByte a
  | c :: m, a => if c.1 = a then c.2 else Memory.read m a

/-- A cell put in at its place in the rising order. -/
def Memory.insert (a : Nat) (b : Byte) : Memory → Memory
  | [] => [(a, b)]
  | c :: m => if a < c.1 then (a, b) :: c :: m else c :: Memory.insert a b m

/-- The memory with `b` at an address of the array, in canonical form. -/
def Memory.write (m : Memory) (a : Nat) (b : Byte) : Memory :=
  let others := m.filter (fun c => c.1 != a)
  if b = Config.resetByte a then others else Memory.insert a b others

/-- The memory port's 12 address lines: every address is reduced modulo 4096 (R62). UNVERIFIED: D1 (log 1), unsafe. -/
def portAddr (addr : Nat) : Nat := addr % Config.memSize

/-- `MemRead(addr, 1)` (R10). -/
def State.memRead (s : State) (addr : Nat) : Byte := s.mem.read (portAddr addr)

/-- `MemWrite(addr, 1, b)` (R10). -/
def State.memWrite (s : State) (addr : Nat) (b : Byte) : State :=
  { s with mem := s.mem.write (portAddr addr) b }

/-- Bytes written one after another from `addr` upward. -/
def State.memWriteList (s : State) (addr : Nat) : List Byte → State
  | [] => s
  | b :: bs => (s.memWrite addr b).memWriteList (addr + 1) bs

/-- Instruction fetch, `MemRead(PC, 2)`: big-endian, the byte at PC in bits 15..8 (R63, R121). -/
def State.fetch (s : State) : Word := s.memRead s.pc.toNat ++ s.memRead (s.pc.toNat + 1)

/-! ### Registers (10_state.md) -/

/-- `V[r]` (R9, R21). -/
def State.readV (s : State) (r : Reg) : Byte := s.v[r.toNat]'(r.isLt)

/-- `V[r] <- b` (R9). -/
def State.writeV (s : State) (r : Reg) (b : Byte) : State := { s with v := s.v.set r.toNat b r.isLt }

/-- `I <- a`, stored in 16 bits and reduced to its 12 significant bits (R24). UNVERIFIED: D2 (log 2), unsafe. -/
def State.writeI (s : State) (a : Nat) : State := { s with i := BitVec.ofNat 16 (a % Config.memSize) }

/-- `pc <- a`, which always means `PC <- a & 0x0FFF` (R9, R25). UNVERIFIED: D3 (log 3), unsafe. -/
def State.writePc (s : State) (a : Nat) : State := { s with pc := BitVec.ofNat 16 (a % Config.memSize) }

/-- `pc <- PC + k` (R124). -/
def State.advance (s : State) (k : Nat) : State := s.writePc (s.pc.toNat + k)

/-- The two outcomes of a conditional skip: PC + 4 if the condition holds, else PC + 2 (R124). -/
def State.skipIf (s : State) (cond : Bool) : State := s.advance (if cond then 4 else 2)

/-! ### The stack (R26, R27) -/

/-- `STACK[SP] <- w; SP <- SP + 1`, or none when SP = 16 (R142). -/
def State.push (s : State) (w : Word) : Option State :=
  if h : s.sp.val < 16 then
    some { s with stack := s.stack.set s.sp.val w h, sp := ⟨s.sp.val + 1, by omega⟩ }
  else none

/-- `SP <- SP - 1`, then the entry `STACK[SP]`, or none when SP = 0 (R140). The popped entry stays in STACK. -/
def State.pop (s : State) : Option (Word × State) :=
  if h : 0 < s.sp.val then
    some (s.stack[s.sp.val - 1]'(by omega), { s with sp := ⟨s.sp.val - 1, by omega⟩ })
  else none

/-! ### Timers (R28, R29, R125) -/

/-- One timer's tick: down by one, staying at 0. -/
def countDown (b : Byte) : Byte := if b = 0x00#8 then b else b - 0x01#8

/-- `tick()` (R125): each timer on its own, from the values the instruction left. -/
def State.tick (s : State) : State := { s with dt := countDown s.dt, st := countDown s.st }

/-! ### The display's own operations (20_memory.md R76, 10_state.md R33) -/

/-- `new()`: 2048 zero cells. -/
def Framebuffer.blank : Framebuffer := Vector.replicate 32 0#64

/-- `get_pixel(p)`: FB[p], cell `p` being bit `p mod 64` of row `p div 64`. R232: `p` is always below 2048; a row
number is taken modulo 32 only so that the function is total (log 37). -/
def Framebuffer.getPixel (fb : Framebuffer) (p : Nat) : Bool :=
  (fb[p / 64 % 32]'(Nat.mod_lt _ (by decide))).getLsbD (p % 64)

/-- `set_pixel(p, value)`: FB[p] overwritten, with no interpretation. -/
def Framebuffer.setPixel (fb : Framebuffer) (p : Nat) (value : Bool) : Framebuffer :=
  let h : p / 64 % 32 < 32 := Nat.mod_lt _ (by decide)
  let row := fb[p / 64 % 32]'h
  let bit := BitVec.twoPow 64 (p % 64)
  fb.set (p / 64 % 32) (if value then row ||| bit else row &&& ~~~bit) h

/-- `snapshot()`: the 2048 cells in index order. -/
def Framebuffer.snapshot (fb : Framebuffer) : List Bool := (List.range Config.fbSize).map fb.getPixel

/-- The cell of the pixel in column `cx` and row `cy`, each wrapped at its edge (R33, R231). -/
def cellOf (cx cy : Nat) : Nat :=
  (cy % Config.displayHeight) * Config.displayWidth + cx % Config.displayWidth

/-! ### The free input (R12, R256) -/

/-- One sample of the `rnd` input: the next free byte, and the state that has used it. -/
def State.sampleRnd (s : State) : Byte × State :=
  (Config.rnd8 s.rndIndex, { s with rndIndex := s.rndIndex + 1 })

/-! ### Fault entry (60_exceptions.md R278) -/

/-- The 2-bit code of a cause (R271). -/
def FaultCause.code : FaultCause → BitVec 2
  | .none => 0
  | .unknownOpcode => 1
  | .stackOverflow => 2
  | .stackUnderflow => 3

/-- `raise cause(op, PC)`: the fault record is written and nothing else (R278, R127). UNVERIFIED in its form and in
leaving the rest untouched: D17, D18 (log 17, 18). -/
def State.raise (s : State) (cause : FaultCause) (op : Word) : State :=
  { s with halt := true, fcause := cause, fopcode := op, fpc := s.pc }

/-- The fault record all zero, as reset leaves it (R35, R37). -/
def State.clearRecord (s : State) : State :=
  { s with halt := false, fcause := .none, fopcode := 0x0000#16, fpc := 0x0000#16 }

end Sys2Proof.Machine
end

