-- ==== Sys2Proof/Machine/Flags.lean ====
section
/-! DEFINITION. The flag computations: what each flag-writing instruction leaves in VF, 10_state.md R22.
VF is always 0x00 or 0x01 as a full register value. -/

namespace Sys2Proof.Machine

/-- A flag as the register value 0x00 or 0x01 (R22). -/
def flagByte (f : Bool) : Byte := if f then 0x01#8 else 0x00#8

/-- 8xy4: carry out of bit 7, the sum exceeds 255 (R166). -/
def carryOut (a b : Byte) : Bool := decide (a.toNat + b.toNat > 255)

/-- 8xy5, 8xy7: no borrow in `a - b`, that is `a >= b`; 1 at equality. UNVERIFIED at equality: D11 (log 11). -/
def noBorrow (a b : Byte) : Bool := decide (a.toNat ≥ b.toNat)

/-- 8xy6: bit 0 before the shift (R168). -/
def shiftedOutRight (a : Byte) : Bool := a.getLsbD 0

/-- 8xyE: bit 7 before the shift (R170). -/
def shiftedOutLeft (a : Byte) : Bool := a.getLsbD 7

/-- Fx1E: the unreduced sum leaves the 12-bit range (R191). -/
def indexOverflow (i : Word) (b : Byte) : Bool := decide (i.toNat + b.toNat > 0x0FFF)

/-- `V[x] <- result`, then `VF <- flag`: with x = 15 the flag stands (R171). UNVERIFIED order: D10 (log 10). -/
def State.writeWithFlag (s : State) (x : Reg) (result : Byte) (flag : Bool) : State :=
  (s.writeV x result).writeV Reg.vf (flagByte flag)

end Sys2Proof.Machine
end

