-- ==== Sys2Proof/Machine/Alu.lean ====
section
/-! DEFINITION. Load immediate, add immediate and the register-register ALU, 42_alu.md: 6xnn, 7xnn, 8xy0 to 8xy7,
8xyE. Every one advances PC by 2 and writes no memory. -/

namespace Sys2Proof.Machine

/-- 6xnn, LD_IMM (R160). -/
def execLdImm (x : Reg) (nn : Byte) (s : State) : Host.Outcome State Fault Refusal :=
  .next ((s.writeV x nn).advance 2)

/-- 7xnn, ADD_IMM (R161): wraps, no flag. -/
def execAddImm (x : Reg) (nn : Byte) (s : State) : Host.Outcome State Fault Refusal :=
  .next ((s.writeV x (s.readV x + nn)).advance 2)

/-- 8xy0, LD_REG (R162). -/
def execLdReg (x y : Reg) (s : State) : Host.Outcome State Fault Refusal :=
  .next ((s.writeV x (s.readV y)).advance 2)

/-- 8xy1, OR (R163). UNVERIFIED: VF is not written, D12 (log 12). -/
def execOrReg (x y : Reg) (s : State) : Host.Outcome State Fault Refusal :=
  .next ((s.writeV x (s.readV x ||| s.readV y)).advance 2)

/-- 8xy2, AND (R164). UNVERIFIED: VF is not written, D12 (log 12). -/
def execAndReg (x y : Reg) (s : State) : Host.Outcome State Fault Refusal :=
  .next ((s.writeV x (s.readV x &&& s.readV y)).advance 2)

/-- 8xy3, XOR (R165). UNVERIFIED: VF is not written, D12 (log 12). -/
def execXorReg (x y : Reg) (s : State) : Host.Outcome State Fault Refusal :=
  .next ((s.writeV x (s.readV x ^^^ s.readV y)).advance 2)

/-- 8xy4, ADD_REG (R166). -/
def execAddReg (x y : Reg) (s : State) : Host.Outcome State Fault Refusal :=
  .next ((s.writeWithFlag x (s.readV x + s.readV y) (carryOut (s.readV x) (s.readV y))).advance 2)

/-- 8xy5, SUB (R167). -/
def execSub (x y : Reg) (s : State) : Host.Outcome State Fault Refusal :=
  .next ((s.writeWithFlag x (s.readV x - s.readV y) (noBorrow (s.readV x) (s.readV y))).advance 2)

/-- 8xy6, SHR (R168). UNVERIFIED: V[x] is shifted and V[y] not read, D8 (log 8). -/
def execShr (x _y : Reg) (s : State) : Host.Outcome State Fault Refusal :=
  .next ((s.writeWithFlag x (s.readV x >>> 1) (shiftedOutRight (s.readV x))).advance 2)

/-- 8xy7, SUBN (R169). -/
def execSubn (x y : Reg) (s : State) : Host.Outcome State Fault Refusal :=
  .next ((s.writeWithFlag x (s.readV y - s.readV x) (noBorrow (s.readV y) (s.readV x))).advance 2)

/-- 8xyE, SHL (R170). UNVERIFIED: V[x] is shifted and V[y] not read, D8 (log 8). -/
def execShl (x _y : Reg) (s : State) : Host.Outcome State Fault Refusal :=
  .next ((s.writeWithFlag x (s.readV x <<< 1) (shiftedOutLeft (s.readV x))).advance 2)

end Sys2Proof.Machine
end

