-- ==== Sys2Proof/Syntax.lean ====
section
/-! DEFINITION. The 34 instructions of the opcode map, 30_encoding.md R95, with their fields, R91 to R93. -/

namespace Sys2Proof

/-- An instruction of R95 with its fields. The fields have exactly the widths of R91, so that a field
which does not fit cannot be written; the check on operands as numbers is WellFormed.lean's (R100). -/
inductive Instr where
  /-- 00E0 -/
  | cls
  /-- 00EE -/
  | ret
  /-- 1nnn -/
  | jp (nnn : Addr)
  /-- 2nnn -/
  | call (nnn : Addr)
  /-- 3xnn -/
  | seImm (x : Reg) (nn : Byte)
  /-- 4xnn -/
  | sneImm (x : Reg) (nn : Byte)
  /-- 5xy0 -/
  | seReg (x y : Reg)
  /-- 6xnn -/
  | ldImm (x : Reg) (nn : Byte)
  /-- 7xnn -/
  | addImm (x : Reg) (nn : Byte)
  /-- 8xy0 -/
  | ldReg (x y : Reg)
  /-- 8xy1 -/
  | orReg (x y : Reg)
  /-- 8xy2 -/
  | andReg (x y : Reg)
  /-- 8xy3 -/
  | xorReg (x y : Reg)
  /-- 8xy4 -/
  | addReg (x y : Reg)
  /-- 8xy5 -/
  | sub (x y : Reg)
  /-- 8xy6; `y` is encoded and not read (R168) -/
  | shr (x y : Reg)
  /-- 8xy7 -/
  | subn (x y : Reg)
  /-- 8xyE; `y` is encoded and not read (R170) -/
  | shl (x y : Reg)
  /-- 9xy0 -/
  | sneReg (x y : Reg)
  /-- Annn -/
  | ldI (nnn : Addr)
  /-- Bnnn -/
  | jpV0 (nnn : Addr)
  /-- Cxnn -/
  | rnd (x : Reg) (nn : Byte)
  /-- Dxyn -/
  | drw (x y : Reg) (n : Nibble)
  /-- Ex9E -/
  | skp (x : Reg)
  /-- ExA1 -/
  | sknp (x : Reg)
  /-- Fx07 -/
  | ldVxDt (x : Reg)
  /-- Fx0A -/
  | ldVxK (x : Reg)
  /-- Fx15 -/
  | ldDtVx (x : Reg)
  /-- Fx18 -/
  | ldStVx (x : Reg)
  /-- Fx1E -/
  | addI (x : Reg)
  /-- Fx29 -/
  | ldF (x : Reg)
  /-- Fx33 -/
  | ldB (x : Reg)
  /-- Fx55 -/
  | stRegs (x : Reg)
  /-- Fx65 -/
  | ldRegs (x : Reg)
  deriving DecidableEq, Repr

/-- The mnemonics of R95 and R99, one per row. -/
inductive Mnemonic where
  | cls | ret | jp | call | seImm | sneImm | seReg | ldImm | addImm
  | ldReg | orReg | andReg | xorReg | addReg | sub | shr | subn | shl
  | sneReg | ldI | jpV0 | rnd | drw | skp | sknp
  | ldVxDt | ldVxK | ldDtVx | ldStVx | addI | ldF | ldB | stRegs | ldRegs
  deriving DecidableEq, Repr

/-- The six formats of R92. -/
inductive Format where
  | fixed | nnn | xnn | xy | xyn | x
  deriving DecidableEq, Repr

/-- The fields of an opcode (R91); which of them an instruction uses is fixed by its format. -/
structure Fields where
  x : Reg
  y : Reg
  n : Nibble
  nn : Byte
  nnn : Addr
  deriving DecidableEq, Repr

/-- The instruction of a row with the fields its format uses (R92, R93). -/
def Mnemonic.build (m : Mnemonic) (f : Fields) : Instr :=
  match m with
  | .cls => .cls
  | .ret => .ret
  | .jp => .jp f.nnn
  | .call => .call f.nnn
  | .seImm => .seImm f.x f.nn
  | .sneImm => .sneImm f.x f.nn
  | .seReg => .seReg f.x f.y
  | .ldImm => .ldImm f.x f.nn
  | .addImm => .addImm f.x f.nn
  | .ldReg => .ldReg f.x f.y
  | .orReg => .orReg f.x f.y
  | .andReg => .andReg f.x f.y
  | .xorReg => .xorReg f.x f.y
  | .addReg => .addReg f.x f.y
  | .sub => .sub f.x f.y
  | .shr => .shr f.x f.y
  | .subn => .subn f.x f.y
  | .shl => .shl f.x f.y
  | .sneReg => .sneReg f.x f.y
  | .ldI => .ldI f.nnn
  | .jpV0 => .jpV0 f.nnn
  | .rnd => .rnd f.x f.nn
  | .drw => .drw f.x f.y f.n
  | .skp => .skp f.x
  | .sknp => .sknp f.x
  | .ldVxDt => .ldVxDt f.x
  | .ldVxK => .ldVxK f.x
  | .ldDtVx => .ldDtVx f.x
  | .ldStVx => .ldStVx f.x
  | .addI => .addI f.x
  | .ldF => .ldF f.x
  | .ldB => .ldB f.x
  | .stRegs => .stRegs f.x
  | .ldRegs => .ldRegs f.x

/-- The row an instruction stands in. -/
def Instr.mnemonic : Instr → Mnemonic
  | .cls => .cls
  | .ret => .ret
  | .jp _ => .jp
  | .call _ => .call
  | .seImm _ _ => .seImm
  | .sneImm _ _ => .sneImm
  | .seReg _ _ => .seReg
  | .ldImm _ _ => .ldImm
  | .addImm _ _ => .addImm
  | .ldReg _ _ => .ldReg
  | .orReg _ _ => .orReg
  | .andReg _ _ => .andReg
  | .xorReg _ _ => .xorReg
  | .addReg _ _ => .addReg
  | .sub _ _ => .sub
  | .shr _ _ => .shr
  | .subn _ _ => .subn
  | .shl _ _ => .shl
  | .sneReg _ _ => .sneReg
  | .ldI _ => .ldI
  | .jpV0 _ => .jpV0
  | .rnd _ _ => .rnd
  | .drw _ _ _ => .drw
  | .skp _ => .skp
  | .sknp _ => .sknp
  | .ldVxDt _ => .ldVxDt
  | .ldVxK _ => .ldVxK
  | .ldDtVx _ => .ldDtVx
  | .ldStVx _ => .ldStVx
  | .addI _ => .addI
  | .ldF _ => .ldF
  | .ldB _ => .ldB
  | .stRegs _ => .stRegs
  | .ldRegs _ => .ldRegs

/-- The format of each row (R92, R95). -/
def Mnemonic.format : Mnemonic → Format
  | .cls | .ret => .fixed
  | .jp | .call | .ldI | .jpV0 => .nnn
  | .seImm | .sneImm | .ldImm | .addImm | .rnd => .xnn
  | .seReg | .ldReg | .orReg | .andReg | .xorReg | .addReg | .sub | .shr | .subn | .shl | .sneReg => .xy
  | .drw => .xyn
  | .skp | .sknp | .ldVxDt | .ldVxK | .ldDtVx | .ldStVx | .addI | .ldF | .ldB | .stRegs | .ldRegs => .x

end Sys2Proof
end

