-- ==== Sys2Proof/WellFormed.lean ====
section
/-! DEFINITION. The assembler's check on an instruction written with its operands as numbers
(30_encoding.md R99, R100). An `Instr` has fields of exact widths and needs no check of its own. -/

namespace Sys2Proof

/-- An instruction as the assembler reads it: a mnemonic and its operands as unbounded numbers, in the order
of R99's assembly form (registers by number). -/
structure AsmForm where
  mnemonic : Mnemonic
  operands : List Nat
  deriving DecidableEq, Repr

/-- The widths in bits of a format's operands, in the order of the assembly form (R92, R99). -/
def Format.widths : Format → List Nat
  | .fixed => []
  | .nnn => [12]
  | .xnn => [4, 8]
  | .xy => [4, 4]
  | .xyn => [4, 4, 4]
  | .x => [4]

/-- The operands with the one omission R99 allows made good: `SHR Vx` and `SHL Vx` encode y = 0. -/
def AsmForm.fullOperands (a : AsmForm) : List Nat :=
  match a.mnemonic, a.operands with
  | .shr, [x] => [x, 0]
  | .shl, [x] => [x, 0]
  | _, os => os

/-- Every operand fits its field: R100, "an immediate that does not fit its field ... is an assembly error". -/
def operandsFit (widths operands : List Nat) : Bool :=
  match widths, operands with
  | [], [] => true
  | w :: ws, o :: os => decide (o < 2 ^ w) && operandsFit ws os
  | _, _ => false

/-- The assembler accepts the form: as many operands as the format has, each fitting its field (R100). -/
def AsmForm.wellFormed (a : AsmForm) : Bool :=
  operandsFit a.mnemonic.format.widths a.fullOperands

/-- The fields that a list of operands gives in a format; a field the format does not use is zero. -/
def Format.fields (f : Format) (os : List Nat) : Fields :=
  let zero : Fields := { x := 0, y := 0, n := 0, nn := 0, nnn := 0 }
  match f, os with
  | .nnn, [a] => { zero with nnn := BitVec.ofNat 12 a }
  | .xnn, [r, k] => { zero with x := BitVec.ofNat 4 r, nn := BitVec.ofNat 8 k }
  | .xy, [r, q] => { zero with x := BitVec.ofNat 4 r, y := BitVec.ofNat 4 q }
  | .xyn, [r, q, k] => { zero with x := BitVec.ofNat 4 r, y := BitVec.ofNat 4 q, n := BitVec.ofNat 4 k }
  | .x, [r] => { zero with x := BitVec.ofNat 4 r }
  | _, _ => zero

/-- Assembling one form: the instruction, or none for an assembly error; an operand is never truncated (R100). -/
def AsmForm.assemble (a : AsmForm) : Option Instr :=
  if a.wellFormed then some (a.mnemonic.build (a.mnemonic.format.fields a.fullOperands)) else none

end Sys2Proof
end

