-- ==== Sys2Proof/Decode.lean ====
section
/-! DEFINITION. Decoding, 30_encoding.md R90 to R96, by the masks and matches of the opcode map R95; and the
encoder, written from the patterns' digits of the same map. -/

namespace Sys2Proof

/-- Why bytes are not an instruction. -/
inductive Reject where
  /-- The opcode selects no row of R95: `illegal` of R94, R96. A step raises UnknownOpcode. -/
  | illegal (op : Word)
  /-- Fewer than the two bytes of an opcode (R90). A fetch never gives it. -/
  | tooShort
  deriving DecidableEq, Repr

/-- A row of the opcode map R95: an opcode selects it when `op & mask = bits`. -/
structure OpcodeRow where
  mnemonic : Mnemonic
  mask : Word
  bits : Word
  deriving DecidableEq, Repr

/-- The opcode map, R95, in its order. PRESUMED where the source does not give the digits: the 8xy family
beside 0, 4, 5 (D7, log 7) and Fx07, Fx15, Fx18 (D9, log 9), unsafe. -/
def opcodeMap : List OpcodeRow :=
  [⟨.cls, 0xFFFF, 0x00E0⟩, ⟨.ret, 0xFFFF, 0x00EE⟩, ⟨.jp, 0xF000, 0x1000⟩, ⟨.call, 0xF000, 0x2000⟩,
   ⟨.seImm, 0xF000, 0x3000⟩, ⟨.sneImm, 0xF000, 0x4000⟩, ⟨.seReg, 0xF00F, 0x5000⟩,
   ⟨.ldImm, 0xF000, 0x6000⟩, ⟨.addImm, 0xF000, 0x7000⟩] ++
  [⟨.ldReg, 0xF00F, 0x8000⟩, ⟨.orReg, 0xF00F, 0x8001⟩, ⟨.andReg, 0xF00F, 0x8002⟩, ⟨.xorReg, 0xF00F, 0x8003⟩,
   ⟨.addReg, 0xF00F, 0x8004⟩, ⟨.sub, 0xF00F, 0x8005⟩, ⟨.shr, 0xF00F, 0x8006⟩, ⟨.subn, 0xF00F, 0x8007⟩,
   ⟨.shl, 0xF00F, 0x800E⟩] ++
  [⟨.sneReg, 0xF00F, 0x9000⟩, ⟨.ldI, 0xF000, 0xA000⟩, ⟨.jpV0, 0xF000, 0xB000⟩, ⟨.rnd, 0xF000, 0xC000⟩,
   ⟨.drw, 0xF000, 0xD000⟩, ⟨.skp, 0xF0FF, 0xE09E⟩, ⟨.sknp, 0xF0FF, 0xE0A1⟩] ++
  [⟨.ldVxDt, 0xF0FF, 0xF007⟩, ⟨.ldVxK, 0xF0FF, 0xF00A⟩, ⟨.ldDtVx, 0xF0FF, 0xF015⟩, ⟨.ldStVx, 0xF0FF, 0xF018⟩,
   ⟨.addI, 0xF0FF, 0xF01E⟩, ⟨.ldF, 0xF0FF, 0xF029⟩, ⟨.ldB, 0xF0FF, 0xF033⟩, ⟨.stRegs, 0xF0FF, 0xF055⟩,
   ⟨.ldRegs, 0xF0FF, 0xF065⟩]

/-- An opcode selects a row if and only if `op & mask = match` (R94). -/
def OpcodeRow.selects (r : OpcodeRow) (op : Word) : Bool := op &&& r.mask == r.bits

/-- `x = op[11:8]` (R13, R91). -/
def opX (op : Word) : Reg := op.extractLsb' 8 4
/-- `y = op[7:4]`. -/
def opY (op : Word) : Reg := op.extractLsb' 4 4
/-- `n = op[3:0]`. -/
def opN (op : Word) : Nibble := op.extractLsb' 0 4
/-- `nn = op[7:0]`. -/
def opNN (op : Word) : Byte := op.extractLsb' 0 8
/-- `nnn = op[11:0]`. -/
def opNNN (op : Word) : Addr := op.extractLsb' 0 12

/-- All the fields of an opcode (R91). -/
def opFields (op : Word) : Fields :=
  { x := opX op, y := opY op, n := opN op, nn := opNN op, nnn := opNNN op }

/-- The decoder of R94: total on the 65536 opcodes, an instruction with its fields or `illegal`. -/
def decode (op : Word) : Except Reject Instr :=
  match opcodeMap.find? (fun r => r.selects op) with
  | some r => .ok (r.mnemonic.build (opFields op))
  | none => .error (.illegal op)

/-- The decoder on bytes as memory holds them: the byte at the lower address is bits 15..8 (R90); the rest of the
bytes is handed back. -/
def decodeBytes : List Byte → Except Reject (Instr × List Byte)
  | hi :: lo :: rest =>
    match decode (hi ++ lo) with
    | .ok i => .ok (i, rest)
    | .error e => .error e
  | _ => .error .tooShort

/-- The opcode of an instruction, from the digits of its pattern in R95 (R100). -/
def encode : Instr → Word
  | .cls => 0x00E0#16
  | .ret => 0x00EE#16
  | .jp nnn => 0x1#4 ++ nnn
  | .call nnn => 0x2#4 ++ nnn
  | .seImm x nn => 0x3#4 ++ x ++ nn
  | .sneImm x nn => 0x4#4 ++ x ++ nn
  | .seReg x y => 0x5#4 ++ x ++ y ++ 0x0#4
  | .ldImm x nn => 0x6#4 ++ x ++ nn
  | .addImm x nn => 0x7#4 ++ x ++ nn
  | .ldReg x y => 0x8#4 ++ x ++ y ++ 0x0#4
  | .orReg x y => 0x8#4 ++ x ++ y ++ 0x1#4
  | .andReg x y => 0x8#4 ++ x ++ y ++ 0x2#4
  | .xorReg x y => 0x8#4 ++ x ++ y ++ 0x3#4
  | .addReg x y => 0x8#4 ++ x ++ y ++ 0x4#4
  | .sub x y => 0x8#4 ++ x ++ y ++ 0x5#4
  | .shr x y => 0x8#4 ++ x ++ y ++ 0x6#4
  | .subn x y => 0x8#4 ++ x ++ y ++ 0x7#4
  | .shl x y => 0x8#4 ++ x ++ y ++ 0xE#4
  | .sneReg x y => 0x9#4 ++ x ++ y ++ 0x0#4
  | .ldI nnn => 0xA#4 ++ nnn
  | .jpV0 nnn => 0xB#4 ++ nnn
  | .rnd x nn => 0xC#4 ++ x ++ nn
  | .drw x y n => 0xD#4 ++ x ++ y ++ n
  | .skp x => 0xE#4 ++ x ++ 0x9E#8
  | .sknp x => 0xE#4 ++ x ++ 0xA1#8
  | .ldVxDt x => 0xF#4 ++ x ++ 0x07#8
  | .ldVxK x => 0xF#4 ++ x ++ 0x0A#8
  | .ldDtVx x => 0xF#4 ++ x ++ 0x15#8
  | .ldStVx x => 0xF#4 ++ x ++ 0x18#8
  | .addI x => 0xF#4 ++ x ++ 0x1E#8
  | .ldF x => 0xF#4 ++ x ++ 0x29#8
  | .ldB x => 0xF#4 ++ x ++ 0x33#8
  | .stRegs x => 0xF#4 ++ x ++ 0x55#8
  | .ldRegs x => 0xF#4 ++ x ++ 0x65#8

/-- The two bytes of an opcode as memory holds them, the high byte first (R90). -/
def wordBytes (op : Word) : List Byte := [op.extractLsb' 8 8, op.extractLsb' 0 8]

/-- An item of an assembly text: an instruction, or the data directive `DB b0, b1, ...` (R101). -/
inductive AsmItem where
  | instr (a : AsmForm)
  | db (bytes : List Nat)
  deriving DecidableEq, Repr

/-- The bytes of an item, or none for an assembly error (R100, R101). -/
def AsmItem.bytes : AsmItem → Option (List Byte)
  | .instr a => a.assemble.map (fun i => wordBytes (encode i))
  | .db bs => if bs.all (fun b => decide (b < 256)) then some (bs.map (BitVec.ofNat 8)) else none

/-- The opcode of which the table gives the low `nbits` bits as `w`; the bits above are zero. -/
def tableWord (nbits w : Nat) : Word := BitVec.ofNat 16 (w % 2 ^ nbits)

/-- The instruction the decoder reads from the bits `w` as the opcode table numbers them, laid out as memory holds
the opcode. -/
def decodeTableWord (nbits w : Nat) : Option Instr :=
  match decodeBytes (wordBytes (tableWord nbits w)) with
  | .ok (i, _) => some i
  | .error _ => none

end Sys2Proof
end

