-- ==== Sys2Proof/Machine/Operands.lean ====
section
/-! DEFINITION. The operand forms: the one addressing mode through I (43_index_memory.md R196), register ranges
(R194, R195), the key a register names (44 R211), the keys waited for (44 R214), sprite rows (45 R231). -/

namespace Sys2Proof.Machine

/-- The address `I + offset` of the one addressing mode; the memory port reduces it modulo 4096 (R196). -/
def State.indexAddr (s : State) (offset : Nat) : Nat := s.i.toNat + offset

/-- V[0] to V[x] in order, x included. -/
def State.regsUpTo (s : State) (x : Reg) : List Byte :=
  (List.range (x.toNat + 1)).map (fun k => s.readV (BitVec.ofNat 4 k))

/-- `k` registers loaded from memory at I, V[0] first (R195). -/
def State.loadRegs (s : State) : Nat → State
  | 0 => s
  | k + 1 => (s.loadRegs k).writeV (BitVec.ofNat 4 k) (s.memRead (s.indexAddr k))

/-- KEY[k] for the key number in bits 3:0 of a register value. UNVERIFIED above 15: D14 (log 14). -/
def State.keyNamed (s : State) (b : Byte) : Bool := s.key.getLsbD (b.toNat % Config.numKeys)

/-- The least `k` with KEY[k] = 1, if any key is pressed (R214). UNVERIFIED choice: D15 (log 15). -/
def State.leastKey (s : State) : Option Nat := (List.range Config.numKeys).find? (fun k => s.key.getLsbD k)

/-- The three decimal digits of a byte: hundreds, tens, ones (R193). -/
def bcdDigits (b : Byte) : List Byte :=
  [BitVec.ofNat 8 (b.toNat / 100), BitVec.ofNat 8 (b.toNat / 10 % 10), BitVec.ofNat 8 (b.toNat % 10)]

/-- Row `r` of the sprite at I (R231). -/
def State.spriteRow (s : State) (r : Nat) : Byte := s.memRead (s.indexAddr r)

/-- The sprite bit of a row byte in column `c`: bit 7 is column 0. PRESUMED: D6 (log 6), unsafe. -/
def spriteBit (b : Byte) (c : Nat) : Bool := b.getLsbD (7 - c)

end Sys2Proof.Machine
end

