-- ==== Sys2Proof/Machine/Control.lean ====
section
/-! DEFINITION. Control transfer, 41_control_flow.md: 00EE, 1nnn, 2nnn, 3xnn, 4xnn, 5xy0, 9xy0, Bnnn. -/

namespace Sys2Proof.Machine

/-- 00EE, RET (R140). With SP = 0 it raises StackUnderflow (R274), with its own opcode (log 33), and writes nothing
else. -/
def execRet (s : State) : Host.Outcome State Fault Refusal :=
  match s.pop with
  | some (entry, t) => .next (t.writePc (entry.toNat + 2))
  | none => .next (s.raise .stackUnderflow (encode .ret))

/-- 1nnn, JP (R141). -/
def execJp (nnn : Addr) (s : State) : Host.Outcome State Fault Refusal :=
  .next (s.writePc nnn.toNat)

/-- 2nnn, CALL (R142): the call site itself is pushed. With SP = 16 it raises StackOverflow (R273), with its
own opcode (log 33), and writes nothing else. -/
def execCall (nnn : Addr) (s : State) : Host.Outcome State Fault Refusal :=
  match s.push s.pc with
  | some t => .next (t.writePc nnn.toNat)
  | none => .next (s.raise .stackOverflow (encode (.call nnn)))

/-- 3xnn, SE_IMM (R143). -/
def execSeImm (x : Reg) (nn : Byte) (s : State) : Host.Outcome State Fault Refusal :=
  .next (s.skipIf (s.readV x == nn))

/-- 4xnn, SNE_IMM (R144). -/
def execSneImm (x : Reg) (nn : Byte) (s : State) : Host.Outcome State Fault Refusal :=
  .next (s.skipIf (s.readV x != nn))

/-- 5xy0, SE_REG (R145). -/
def execSeReg (x y : Reg) (s : State) : Host.Outcome State Fault Refusal :=
  .next (s.skipIf (s.readV x == s.readV y))

/-- 9xy0, SNE_REG (R146). -/
def execSneReg (x y : Reg) (s : State) : Host.Outcome State Fault Refusal :=
  .next (s.skipIf (s.readV x != s.readV y))

/-- Bnnn, JP_V0 (R147): the register is always V[0]. -/
def execJpV0 (nnn : Addr) (s : State) : Host.Outcome State Fault Refusal :=
  .next (s.writePc (nnn.toNat + (s.readV 0x0#4).toNat))

end Sys2Proof.Machine
end

