-- ==== Sys2Proof/Machine/IndexMemory.lean ====
section
/-! DEFINITION. Index register and memory, 43_index_memory.md: Annn, Fx1E, Fx29, Fx33, Fx55, Fx65. Every one
advances PC by 2. -/

namespace Sys2Proof.Machine

/-- Annn, LD_I (R190). -/
def execLdI (nnn : Addr) (s : State) : Host.Outcome State Fault Refusal :=
  .next ((s.writeI nnn.toNat).advance 2)

/-- Fx1E, ADD_I (R191): I keeps the low 12 bits of the sum, VF its overflow. -/
def execAddI (x : Reg) (s : State) : Host.Outcome State Fault Refusal :=
  .next (((s.writeI (s.i.toNat + (s.readV x).toNat)).writeV Reg.vf
    (flagByte (indexOverflow s.i (s.readV x)))).advance 2)

/-- Fx29, LD_F (R192): all 8 bits of V[x], no nibble mask. -/
def execLdF (x : Reg) (s : State) : Host.Outcome State Fault Refusal :=
  .next ((s.writeI ((s.readV x).toNat * Config.glyphBytes)).advance 2)

/-- Fx33, LD_B (R193): hundreds, tens, ones at I, I + 1, I + 2. -/
def execLdB (x : Reg) (s : State) : Host.Outcome State Fault Refusal :=
  .next ((s.memWriteList (s.indexAddr 0) (bcdDigits (s.readV x))).advance 2)

/-- Fx55, ST_REGS (R194). UNVERIFIED: I is unchanged, D13 (log 13). -/
def execStRegs (x : Reg) (s : State) : Host.Outcome State Fault Refusal :=
  .next ((s.memWriteList (s.indexAddr 0) (s.regsUpTo x)).advance 2)

/-- Fx65, LD_REGS (R195). UNVERIFIED: I is unchanged, D13 (log 13). -/
def execLdRegs (x : Reg) (s : State) : Host.Outcome State Fault Refusal :=
  .next ((s.loadRegs (x.toNat + 1)).advance 2)

end Sys2Proof.Machine
end

