-- ==== Sys2Proof/Machine/KeysTimers.lean ====
section
/-! DEFINITION. Random number, keypad and timers, 44_random_keys_timers.md: Cxnn, Ex9E, ExA1, Fx07, Fx0A, Fx15,
Fx18. None writes VF as a flag. -/

namespace Sys2Proof.Machine

/-- Cxnn, RND (R210): a fresh free byte AND `nn` (log 16). -/
def execRnd (x : Reg) (nn : Byte) (s : State) : Host.Outcome State Fault Refusal :=
  .next ((s.sampleRnd.2.writeV x (s.sampleRnd.1 &&& nn)).advance 2)

/-- Ex9E, SKP (R211): skip if the key named by V[x] is pressed. -/
def execSkp (x : Reg) (s : State) : Host.Outcome State Fault Refusal :=
  .next (s.skipIf (s.keyNamed (s.readV x)))

/-- ExA1, SKNP (R212): skip if it is not pressed. -/
def execSknp (x : Reg) (s : State) : Host.Outcome State Fault Refusal :=
  .next (s.skipIf (!s.keyNamed (s.readV x)))

/-- Fx07, LD_VX_DT (R213): DT before this step's tick. PRESUMED opcode: D9 (log 9). -/
def execLdVxDt (x : Reg) (s : State) : Host.Outcome State Fault Refusal :=
  .next ((s.writeV x s.dt).advance 2)

/-- Fx0A, LD_VX_K (R214): with no key pressed nothing is written and PC stays, a completed step all the same. -/
def execLdVxK (x : Reg) (s : State) : Host.Outcome State Fault Refusal :=
  match s.leastKey with
  | some k => .next ((s.writeV x (BitVec.ofNat 8 k)).advance 2)
  | none => .next s

/-- Fx15, LD_DT_VX (R215). PRESUMED opcode: D9 (log 9). -/
def execLdDtVx (x : Reg) (s : State) : Host.Outcome State Fault Refusal :=
  let t : State := { s with dt := s.readV x }
  .next (t.advance 2)

/-- Fx18, LD_ST_VX (R216). PRESUMED opcode: D9 (log 9). -/
def execLdStVx (x : Reg) (s : State) : Host.Outcome State Fault Refusal :=
  let t : State := { s with st := s.readV x }
  .next (t.advance 2)

end Sys2Proof.Machine
end

