-- ==== Sys2Proof/Machine/Sprite.lean ====
section
/-! DEFINITION. Display, 45_display.md: 00E0 and Dxyn. -/

namespace Sys2Proof.Machine

/-- What drawing changes while the loops of R231 run: the framebuffer and the collision flag. -/
structure Canvas where
  fb : Framebuffer
  hit : Bool
  deriving DecidableEq, Repr

/-- One sprite bit that is 1 at a cell: an on pixel is a collision, and the cell is inverted (R231). -/
def Canvas.flip (k : Canvas) (p : Nat) : Canvas :=
  { fb := k.fb.setPixel p (k.fb.getPixel p ^^ true), hit := k.hit || k.fb.getPixel p }

/-- The first `c` columns of a sprite row at (x0, y): a 0 bit touches nothing (R231). -/
def Canvas.drawRow (k : Canvas) (x0 y : Nat) (b : Byte) : Nat → Canvas
  | 0 => k
  | c + 1 =>
    let d := k.drawRow x0 y b c
    if spriteBit b c then d.flip (cellOf (x0 + c) y) else d

/-- The first `r` rows of the sprite whose row bytes are `rows`, at (x0, y0) (R231). -/
def Canvas.drawRows (k : Canvas) (x0 y0 : Nat) (rows : Nat → Byte) : Nat → Canvas
  | 0 => k
  | r + 1 => (k.drawRows x0 y0 rows r).drawRow x0 (y0 + r) (rows r) 8

/-- 00E0, CLS (R230): DF is set even if the framebuffer was already zero. -/
def execCls (s : State) : Host.Outcome State Fault Refusal :=
  let t : State := { s with fb := Framebuffer.blank, df := true }
  .next (t.advance 2)

/-- Dxyn, DRW (R231): both coordinates are read before VF is written (UNVERIFIED, D10, log 10); with n = 0 nothing is
drawn, VF is cleared and DF set (UNVERIFIED, D23, log 23). -/
def execDrw (x y : Reg) (n : Nibble) (s : State) : Host.Outcome State Fault Refusal :=
  let start : Canvas := { fb := s.fb, hit := false }
  let drawn := start.drawRows (s.readV x).toNat (s.readV y).toNat s.spriteRow n.toNat
  let t : State := { s with fb := drawn.fb, df := true }
  .next ((t.writeV Reg.vf (flagByte drawn.hit)).advance 2)

end Sys2Proof.Machine
end

