-- ==== Sys2Proof/Machine/Cycle.lean ====
section
/-! DEFINITION. The step cycle, 40_step_cycle.md R120: fetch, decode, execute, tick; the faulting and the halted
step. Step.lean calls it. -/

namespace Sys2Proof.Machine

/-- The end of a step whose instruction left `t`: the timers tick, unless the instruction raised a fault
(R125, R127). A step that runs an instruction began with HALT = 0, so HALT = 1 means that it raised one. -/
def State.endStep (t : State) : State := if t.halt then t else t.tick

/-- An instruction's outcome with the end of the step after it. -/
def endOutcome : Host.Outcome State Fault Refusal → Host.Outcome State Fault Refusal
  | .next t => .next t.endStep
  | .fault r => .fault r
  | .refused r => .refused r

/-- `step()` (R120). A fault is a next state (log 28); the tick and the test of HALT stand here (log 35). -/
def cycle (s : State) : Host.Outcome State Fault Refusal :=
  if s.halt then .next s
  else
    match decode s.fetch with
    | .ok i => endOutcome (exec i s)
    | .error _ => .next (s.raise .unknownOpcode s.fetch)

/-- The state in which the next fetch reads `op`: HALT clear, and the two bytes of `op` at PC and PC + 1 (log 32). -/
def State.placeWord (s : State) (op : Word) : State :=
  s.clearRecord.memWriteList s.pc.toNat (wordBytes op)

end Sys2Proof.Machine
end

