-- ==== Sys2Proof/Machine/Step.lean ====
section
/-! DEFINITION. The one transition of CORE's agent, and the placing of one instruction where it fetches. -/

namespace Sys2Proof.Machine

/-- One `step` of the core (R120); Cycle.lean has its text. -/
def step (s : State) : Host.Outcome State Fault Refusal := cycle s

/-- `s` with the opcode of which the table gives the low `nbits` bits as `w` stored at PC (log 32). -/
def State.withFetchWord (s : State) (nbits w : Nat) : State := s.placeWord (tableWord nbits w)

end Sys2Proof.Machine
end

