-- ==== Sys2Proof/Machine/Ports.lean ====
section
/-! DEFINITION. The host's ports, 46_host_operations.md R250 to R259: each an atomic transition between steps
(D32, log 30), in the order of the host's schedule (log 34). They work while the core is halted (D22, log 22). -/

namespace Sys2Proof.Machine

/-- What `fault_status` returns: HALT, FCAUSE as its code, FOPCODE, FPC (R257). -/
structure FaultRecord where
  halt : Bool
  fcause : BitVec 2
  fopcode : Word
  fpc : Word
  deriving DecidableEq, Repr

/-- The host's operations (R250). `step` is the core's own transition, and `rnd` is sampled inside it. -/
inductive HostOp where
  | load (rom : List Byte)
  | setKey (index : Nat) (pressed : Bool)
  | displaySnapshot
  | displayWidth
  | displayHeight
  | takeDrawFlag
  | faultStatus
  | soundActive
  deriving DecidableEq, Repr

/-- What a port answers. -/
inductive Reply where
  | ok
  /-- A boundary error of `load`, no fault (R251, R275). -/
  | loadError
  /-- A boundary error of `set_key`, no fault (R253, R275). -/
  | keyIndexError
  /-- The 2048 cells in index order (R254). -/
  | cells (fb : List Bool)
  | number (n : Nat)
  | flag (b : Bool)
  | record (r : FaultRecord)
  deriving DecidableEq, Repr

/-- `fault_status()` (R257). -/
def State.faultStatus (s : State) : FaultRecord :=
  { halt := s.halt, fcause := s.fcause.code, fopcode := s.fopcode, fpc := s.fpc }

/-- `sound_active()`: ST != 0 (R258). -/
def State.soundActive (s : State) : Bool := s.st != 0x00#8

/-- `reset()` (R311). The environment's stream of random bytes is no state of CORE and goes on: `rndIndex` is kept,
so that no byte of it is drawn twice (log 16). -/
def State.resetCore (s : State) : State := { State.reset with rndIndex := s.rndIndex }

/-- `load(bytes)` (R251): a full reset and the ROM at 0x200, or LoadError and no change. -/
def State.load (s : State) (rom : List Byte) : Reply × State :=
  if Config.progBase + rom.length > Config.memSize then (.loadError, s)
  else (.ok, s.resetCore.memWriteList Config.progBase rom)

/-- One key bit overwritten. -/
def setKeyBit (key : BitVec 16) (index : Nat) (pressed : Bool) : BitVec 16 :=
  if pressed then key ||| BitVec.twoPow 16 index else key &&& ~~~BitVec.twoPow 16 index

/-- `set_key(index, pressed)` (R253): KeyIndexError and no change for an index above 15. -/
def State.setKey (s : State) (index : Nat) (pressed : Bool) : Reply × State :=
  if index > 15 then (.keyIndexError, s)
  else (.ok, { s with key := setKeyBit s.key index pressed })

/-- `take_draw_flag()`: DF, which is then cleared (R255). -/
def State.takeDrawFlag (s : State) : Reply × State := (.flag s.df, { s with df := false })

/-- The host's transitions (R250, R259). -/
def hostOp (op : HostOp) (s : State) : Reply × State :=
  match op with
  | .load rom => s.load rom
  | .setKey index pressed => s.setKey index pressed
  | .displaySnapshot => (.cells s.fb.snapshot, s)
  | .displayWidth => (.number Config.displayWidth, s)
  | .displayHeight => (.number Config.displayHeight, s)
  | .takeDrawFlag => s.takeDrawFlag
  | .faultStatus => (.record s.faultStatus, s)
  | .soundActive => (.flag s.soundActive, s)

/-- What the `step` port answers from the state a step leaves: ok, or the fault record when this step raised a fault
or the core was already halted (R252, R128). -/
def stepReply (t : State) : Reply := if t.halt then .record t.faultStatus else .ok

/-- One transition of the whole system (R259): a step of the core, or one operation of the host. -/
inductive Move where
  | step
  | host (op : HostOp)
  deriving DecidableEq, Repr

/-- A transition's answer and the state after it. -/
def Move.apply (m : Move) (s : State) : Host.Outcome (Reply × State) Fault Refusal :=
  match m with
  | .host op => .next (hostOp op s)
  | .step =>
    match Machine.step s with
    | .next t => .next (stepReply t, t)
    | .fault r => .fault r
    | .refused r => .refused r

/-- The system is one sequence of transitions, in the order the host issues them (R70, R259): the answers in order
and the state after the last, stopping at the first fault or refusal. -/
def runMoves : List Move → State → Host.Outcome (List Reply × State) Fault Refusal
  | [], s => .next ([], s)
  | m :: ms, s =>
    match m.apply s with
    | .next (r, t) =>
      match runMoves ms t with
      | .next (rs, u) => .next (r :: rs, u)
      | .fault e => .fault e
      | .refused e => .refused e
    | .fault e => .fault e
    | .refused e => .refused e

end Sys2Proof.Machine
end

