-- ==== Sys2Proof/Safety.lean ====
section
/-! DEFINITION. The terms the claims use: the machine's invariant (10_state.md R38), the ends of a run
(60_exceptions.md R287), and what an instruction leaves unchanged. -/

namespace Sys2Proof.Machine

/-- The invariant of R38 in the model's terms: memory is in canonical form inside 4096 bytes (a), PC, I and FPC are
12-bit (c, R20), every live stack entry is (e), HALT = 0 if and only if FCAUSE = 0 (f), and the fault record is zero
while HALT = 0 (R257). Points (b), (d) and (g) hold by the types of SP, FB and the accessors. -/
structure State.Inv (s : State) : Prop where
  memory : s.mem.wf
  pc : s.pc.toNat ≤ 0x0FFF
  i : s.i.toNat ≤ 0x0FFF
  fpc : s.fpc.toNat ≤ 0x0FFF
  live : ∀ k, (h : k < 16) → k < s.sp.val → s.stack[k].toNat ≤ 0x0FFF
  cause : s.halt = false ↔ s.fcause = .none
  record : s.halt = false → s.fopcode = 0x0000#16 ∧ s.fpc = 0x0000#16

/-- R287 a: the run ended in a fault. -/
def State.Halted (s : State) : Prop := s.halt = true

/-- R131, R287 b: PC addresses a jump to itself and both timers are zero. -/
def State.Quiescent (s : State) : Prop :=
  s.halt = false ∧ decode s.fetch = .ok (.jp (s.pc.setWidth 12)) ∧ s.pc.toNat ≤ 0x0FFF ∧
    s.dt = 0x00#8 ∧ s.st = 0x00#8

/-- R287 c: PC addresses an Fx0A and no key is pressed. -/
def State.Waiting (s : State) : Prop :=
  s.halt = false ∧ (∃ x, decode s.fetch = .ok (.ldVxK x)) ∧ s.key = 0x0000#16

/-- The parts of the state, as the frames name them. -/
inductive Part where
  | v | i | pc | stack | sp | dt | st | mem | fb | df | key | record | rnd
  deriving DecidableEq, Repr

/-- Every part of the state but those listed is the same before and after; memory is compared byte by byte through
the memory port's read. -/
structure Frame (changed : List Part) (s t : State) : Prop where
  v : .v ∉ changed → ∀ r, t.readV r = s.readV r
  i : .i ∉ changed → t.i = s.i
  pc : .pc ∉ changed → t.pc = s.pc
  stack : .stack ∉ changed → t.stack = s.stack
  sp : .sp ∉ changed → t.sp = s.sp
  dt : .dt ∉ changed → t.dt = s.dt
  st : .st ∉ changed → t.st = s.st
  mem : .mem ∉ changed → ∀ a, t.memRead a = s.memRead a
  fb : .fb ∉ changed → t.fb = s.fb
  df : .df ∉ changed → t.df = s.df
  key : .key ∉ changed → t.key = s.key
  record : .record ∉ changed →
    t.halt = s.halt ∧ t.fcause = s.fcause ∧ t.fopcode = s.fopcode ∧ t.fpc = s.fpc
  rnd : .rnd ∉ changed → t.rndIndex = s.rndIndex

/-- The fault record written by a fault of this cause at this opcode: R278. -/
def Faulted (cause : FaultCause) (op : Word) (s t : State) : Prop :=
  t.halt = true ∧ t.fcause = cause ∧ t.fopcode = op ∧ t.fpc = s.pc

/-- Two states that agree on everything but ST, DF and the dead stack entries, those at and above SP: what no
instruction reads (R26, R29, R34). -/
structure SameToPrograms (s t : State) : Prop where
  mem : s.mem = t.mem
  v : s.v = t.v
  i : s.i = t.i
  pc : s.pc = t.pc
  sp : s.sp = t.sp
  live : ∀ k, (h : k < 16) → k < s.sp.val → s.stack[k] = t.stack[k]
  dt : s.dt = t.dt
  key : s.key = t.key
  fb : s.fb = t.fb
  record : s.halt = t.halt ∧ s.fcause = t.fcause ∧ s.fopcode = t.fopcode ∧ s.fpc = t.fpc
  rnd : s.rndIndex = t.rndIndex

/-- The parts of the state that an instruction may write when it runs on its own, before the tick: the "written by"
column of R20, with the fault record for the two instructions that can fault. -/
def mayWrite : Instr → List Part
  | .cls => [.fb, .df, .pc]
  | .ret => [.sp, .pc, .record]
  | .jp _ | .seImm _ _ | .sneImm _ _ | .seReg _ _ | .sneReg _ _ | .jpV0 _ | .skp _ | .sknp _ => [.pc]
  | .call _ => [.stack, .sp, .pc, .record]
  | .ldImm _ _ | .addImm _ _ | .ldReg _ _ | .orReg _ _ | .andReg _ _ | .xorReg _ _ | .addReg _ _ | .sub _ _
  | .shr _ _ | .subn _ _ | .shl _ _ | .ldVxDt _ | .ldVxK _ | .ldRegs _ => [.v, .pc]
  | .ldI _ | .ldF _ => [.i, .pc]
  | .rnd _ _ => [.v, .pc, .rnd]
  | .drw _ _ _ => [.v, .fb, .df, .pc]
  | .ldDtVx _ => [.dt, .pc]
  | .ldStVx _ => [.st, .pc]
  | .addI _ => [.v, .i, .pc]
  | .ldB _ | .stRegs _ => [.mem, .pc]

/-- The instructions that write VF as a flag, the table of R22. -/
def writesFlag : Instr → Bool
  | .addReg _ _ | .sub _ _ | .shr _ _ | .subn _ _ | .shl _ _ | .addI _ | .drw _ _ _ => true
  | .cls | .ret | .jp _ | .call _ | .seImm _ _ | .sneImm _ _ | .seReg _ _ | .ldImm _ _ | .addImm _ _
  | .ldReg _ _ | .orReg _ _ | .andReg _ _ | .xorReg _ _ | .sneReg _ _ | .ldI _ | .jpV0 _ | .rnd _ _
  | .skp _ | .sknp _ | .ldVxDt _ | .ldVxK _ | .ldDtVx _ | .ldStVx _ | .ldF _ | .ldB _ | .stRegs _
  | .ldRegs _ => false

/-- The registers named by an instruction's own fields that it writes, the "writes" column of R23 less the flag. -/
def namesForWriting : Instr → Reg → Bool
  | .ldImm x _, r | .addImm x _, r | .ldReg x _, r | .orReg x _, r | .andReg x _, r | .xorReg x _, r
  | .addReg x _, r | .sub x _, r | .shr x _, r | .subn x _, r | .shl x _, r | .rnd x _, r | .ldVxDt x, r
  | .ldVxK x, r => r == x
  | .ldRegs x, r => decide (r.toNat ≤ x.toNat)
  | .cls, _ | .ret, _ | .jp _, _ | .call _, _ | .seImm _ _, _ | .sneImm _ _, _ | .seReg _ _, _
  | .sneReg _ _, _ | .ldI _, _ | .jpV0 _, _ | .drw _ _ _, _ | .skp _, _ | .sknp _, _ | .ldDtVx _, _
  | .ldStVx _, _ | .addI _, _ | .ldF _, _ | .ldB _, _ | .stRegs _, _ => false

/-- PC after an instruction, by the classes of R124; a fault leaves PC where it is (R127). -/
def nextPc (i : Instr) (s : State) : Nat :=
  match i with
  | .cls | .ldImm _ _ | .addImm _ _ | .ldReg _ _ | .orReg _ _ | .andReg _ _ | .xorReg _ _ | .addReg _ _
  | .sub _ _ | .shr _ _ | .subn _ _ | .shl _ _ | .ldI _ | .rnd _ _ | .drw _ _ _ | .ldVxDt _ | .ldDtVx _
  | .ldStVx _ | .addI _ | .ldF _ | .ldB _ | .stRegs _ | .ldRegs _ => (s.pc.toNat + 2) % 4096
  | .seImm x nn => (s.pc.toNat + if s.readV x = nn then 4 else 2) % 4096
  | .sneImm x nn => (s.pc.toNat + if s.readV x ≠ nn then 4 else 2) % 4096
  | .seReg x y => (s.pc.toNat + if s.readV x = s.readV y then 4 else 2) % 4096
  | .sneReg x y => (s.pc.toNat + if s.readV x ≠ s.readV y then 4 else 2) % 4096
  | .skp x => (s.pc.toNat + if s.key.getLsbD ((s.readV x).toNat % 16) = true then 4 else 2) % 4096
  | .sknp x => (s.pc.toNat + if s.key.getLsbD ((s.readV x).toNat % 16) = false then 4 else 2) % 4096
  | .jp nnn => nnn.toNat
  | .call nnn => if s.sp.val = 16 then s.pc.toNat else nnn.toNat
  | .jpV0 nnn => (nnn.toNat + (s.readV 0).toNat) % 4096
  | .ret =>
    if s.sp.val = 0 then s.pc.toNat else ((s.stack.toList.getD (s.sp.val - 1) 0).toNat + 2) % 4096
  | .ldVxK _ => if s.key = 0 then s.pc.toNat else (s.pc.toNat + 2) % 4096

/-- The cell `p` is covered by the `n`-row sprite at I drawn at (x0, y0): a set sprite bit maps to it (R233, R234);
bit 7 of a row byte is its leftmost column (R231). -/
def SpriteCovers (s : State) (x0 y0 n p : Nat) : Prop :=
  ∃ r c, r < n ∧ c < 8 ∧ (s.memRead (s.i.toNat + r)).getLsbD (7 - c) = true ∧
    p = (y0 + r) % 32 * 64 + (x0 + c) % 64

end Sys2Proof.Machine
end

