-- ==== Sys2Proof/Certificates/Slice0/Obligations.lean ====
section
/-! DEFINITION. The statements for the provers. Each docstring names the rules of spec/ it formalises; where one rests
on a decision of the spec's own (spec/92, D<n>) or on general knowledge the spec marks, it says so with the entry of
notes/assumptions/. `PC <- a` always means the low 12 bits of `a` (00_scope.md R9, 10_state.md R25): the spec's
decision D3, log 3. -/

open Sys2Proof Sys2Proof.Machine

/-! ### Encoding and decoding -/

/-- 30_encoding.md, decoding: "The rows are mutually exclusive (no opcode satisfies two rows)". -/
def Obligations.OpcodeRowsAreMutuallyExclusive : Prop :=
  ∀ op : Word, ∀ r ∈ opcodeMap, ∀ q ∈ opcodeMap,
    op &&& r.mask = r.bits → op &&& q.mask = q.bits → r = q

/-- 30_encoding.md, decoding: an opcode gives a row's instruction with the opcode's fields exactly when
`op & mask = match`, and is illegal exactly when no row selects it. Exact match of every digit is D19 (log 19). -/
def Obligations.DecodeFollowsTheOpcodeMap : Prop :=
  (∀ (op : Word) (i : Instr), decode op = .ok i ↔
    ∃ r ∈ opcodeMap, op &&& r.mask = r.bits ∧ i = r.mnemonic.build (opFields op)) ∧
  (∀ op : Word, decode op = .error (.illegal op) ↔ ∀ r ∈ opcodeMap, op &&& r.mask ≠ r.bits)

/-- Decode and encode agree (30_encoding.md R94, R95, R100): no bit of an operand is dropped, for every instruction and
every operand value. Digits of the map that are general knowledge are D7, D9 (log 7, 9). -/
def Obligations.DecodeOfEncodeIsTheInstruction : Prop :=
  ∀ i : Instr, decode (encode i) = .ok i

/-- The other direction: a legal opcode is the encoding of the instruction it decodes to. Exact match is D19 (log 19). -/
def Obligations.EncodeOfDecodeIsTheOpcode : Prop :=
  ∀ (op : Word) (i : Instr), decode op = .ok i → encode i = op

/-- 30_encoding.md, illegal encodings: the illegal set family by family, the table's set and not its
counts. Exact match is D19 (log 19). -/
def Obligations.IllegalOpcodesByFamily : Prop :=
  ∀ op : Word, decode op = .error (.illegal op) ↔
    (op.extractLsb' 12 4 = 0x0#4 ∧ op ≠ 0x00E0#16 ∧ op ≠ 0x00EE#16) ∨
    (op.extractLsb' 12 4 = 0x5#4 ∧ op.extractLsb' 0 4 ≠ 0x0#4) ∨
    (op.extractLsb' 12 4 = 0x8#4 ∧
      op.extractLsb' 0 4 ∈ [0x8#4, 0x9#4, 0xA#4, 0xB#4, 0xC#4, 0xD#4, 0xF#4]) ∨
    (op.extractLsb' 12 4 = 0x9#4 ∧ op.extractLsb' 0 4 ≠ 0x0#4) ∨
    (op.extractLsb' 12 4 = 0xE#4 ∧ op.extractLsb' 0 8 ∉ [0x9E#8, 0xA1#8]) ∨
    (op.extractLsb' 12 4 = 0xF#4 ∧ op.extractLsb' 0 8 ∉
      [0x07#8, 0x0A#8, 0x15#8, 0x18#8, 0x1E#8, 0x29#8, 0x33#8, 0x55#8, 0x65#8])

/-- Words of the spec's decode vectors (95_test_vectors.md 2.1), one of every family and the nearest illegal ones. The
8xy digits and exact match are D7 and D19 (log 7, 19). -/
def Obligations.SampleWordsDecodeAsTheSpecSays : Prop :=
  decode 0x00E0 = .ok .cls ∧ decode 0x2ABC = .ok (.call 0xABC) ∧ decode 0x7FFF = .ok (.addImm 15 0xFF) ∧
  decode 0x8AB7 = .ok (.subn 10 11) ∧ decode 0x8006 = .ok (.shr 0 0) ∧ decode 0xB2F0 = .ok (.jpV0 0x2F0) ∧
  decode 0xD125 = .ok (.drw 1 2 5) ∧ decode 0xE0A1 = .ok (.sknp 0) ∧ decode 0xF065 = .ok (.ldRegs 0) ∧
  decode 0x5121 = .error (.illegal 0x5121) ∧ decode 0x01E0 = .error (.illegal 0x01E0) ∧
  decode 0x800F = .error (.illegal 0x800F)

/-- 30_encoding.md, encoding from the assembly form: the opcode is the pattern's fixed digits with each operand in
its field, and an operand that does not fit its field is an error, never truncated. -/
def Obligations.AssemblingPlacesOperandsOrFails : Prop :=
  ∀ r ∈ opcodeMap,
    (r.mnemonic.format = .fixed →
      ∃ i, AsmForm.assemble ⟨r.mnemonic, []⟩ = some i ∧ encode i = r.bits) ∧
    (r.mnemonic.format = .nnn → ∀ a : Nat,
      (a < 4096 → ∃ i, AsmForm.assemble ⟨r.mnemonic, [a]⟩ = some i ∧ (encode i).toNat = r.bits.toNat + a) ∧
      (4096 ≤ a → AsmForm.assemble ⟨r.mnemonic, [a]⟩ = none)) ∧
    (r.mnemonic.format = .xnn → ∀ x k : Nat,
      (x < 16 ∧ k < 256 → ∃ i, AsmForm.assemble ⟨r.mnemonic, [x, k]⟩ = some i ∧
        (encode i).toNat = r.bits.toNat + x * 256 + k) ∧
      (16 ≤ x ∨ 256 ≤ k → AsmForm.assemble ⟨r.mnemonic, [x, k]⟩ = none)) ∧
    (r.mnemonic.format = .xy → ∀ x y : Nat,
      (x < 16 ∧ y < 16 → ∃ i, AsmForm.assemble ⟨r.mnemonic, [x, y]⟩ = some i ∧
        (encode i).toNat = r.bits.toNat + x * 256 + y * 16) ∧
      (16 ≤ x ∨ 16 ≤ y → AsmForm.assemble ⟨r.mnemonic, [x, y]⟩ = none)) ∧
    (r.mnemonic.format = .xyn → ∀ x y n : Nat,
      (x < 16 ∧ y < 16 ∧ n < 16 → ∃ i, AsmForm.assemble ⟨r.mnemonic, [x, y, n]⟩ = some i ∧
        (encode i).toNat = r.bits.toNat + x * 256 + y * 16 + n) ∧
      (16 ≤ x ∨ 16 ≤ y ∨ 16 ≤ n → AsmForm.assemble ⟨r.mnemonic, [x, y, n]⟩ = none)) ∧
    (r.mnemonic.format = .x → ∀ x : Nat,
      (x < 16 → ∃ i, AsmForm.assemble ⟨r.mnemonic, [x]⟩ = some i ∧
        (encode i).toNat = r.bits.toNat + x * 256) ∧
      (16 ≤ x → AsmForm.assemble ⟨r.mnemonic, [x]⟩ = none))

/-! ### The step -/

/-- 40_step_cycle.md, the step; 20_memory.md R63: the two bytes at PC and PC + 1, the first in the high half, are
decoded, the instruction is executed, and then the timers tick unless it faulted, D18 (log 18). -/
def Obligations.StepRunsTheDecodedInstruction : Prop :=
  ∀ (s u : State) (hi lo : Byte) (i : Instr), s.halt = false →
    s.memRead s.pc.toNat = hi → s.memRead ((s.pc.toNat + 1) % 4096) = lo →
    decode (hi ++ lo) = .ok i → exec i s = .next u →
    step s = .next (if u.halt = true then u else u.tick)

/-- 20_memory.md R63: fetch is big-endian, the byte at the lower address in bits 15..8. -/
def Obligations.FetchIsBigEndian : Prop :=
  ∀ (s : State) (k : Nat), k < 8 →
    s.fetch.getLsbD (k + 8) = (s.memRead s.pc.toNat).getLsbD k ∧
    s.fetch.getLsbD k = (s.memRead ((s.pc.toNat + 1) % 4096)).getLsbD k

/-- 40_step_cycle.md R125: each timer on its own goes down by one and stays at 0, from the values the instruction
left; the tick is applied in every completed step, and in no faulting or halted one, D18 (log 18). -/
def Obligations.TimersTickInEveryCompletedStep : Prop :=
  (∀ (s u : State) (i : Instr), s.halt = false → decode s.fetch = .ok i → exec i s = .next u → u.halt = false →
    ∃ t, step s = .next t ∧ t.dt.toNat = u.dt.toNat - 1 ∧ t.st.toNat = u.st.toNat - 1 ∧
      Frame [.dt, .st] u t) ∧
  (∀ (s u : State) (i : Instr), s.halt = false → decode s.fetch = .ok i → exec i s = .next u → u.halt = true →
    step s = .next u ∧ u.dt = s.dt ∧ u.st = s.st) ∧
  (∀ (s t : State) (op : Word), s.halt = false → decode s.fetch = .error (.illegal op) → step s = .next t →
    t.dt = s.dt ∧ t.st = s.st) ∧
  (∀ s t : State, s.halt = true → step s = .next t → t.dt = s.dt ∧ t.st = s.st)

/-- 60_exceptions.md R272, R278; 40_step_cycle.md R127: an illegal opcode raises UnknownOpcode, and the step writes
the fault record and nothing else. The record is D17 (log 17), the rest untouched D18 (log 18). -/
def Obligations.IllegalOpcodeRaisesUnknownOpcode : Prop :=
  ∀ (s : State), s.halt = false → decode s.fetch = .error (.illegal s.fetch) →
    ∃ t, step s = .next t ∧ Faulted .unknownOpcode s.fetch s t ∧ Frame [.record] s t

/-- 60_exceptions.md R273, R274, R278: in a step, 2nnn with SP = 16 and 00EE with SP = 0 write the fault record, with
the opcode that was fetched and the address of it, and nothing else: no push, no pop, no tick. D17, D18 (log 17, 18). -/
def Obligations.StackFaultsWriteOnlyTheRecord : Prop :=
  (∀ (s : State) (nnn : Addr), s.halt = false → decode s.fetch = .ok (.call nnn) → s.sp.val = 16 →
    ∃ t, step s = .next t ∧ Faulted .stackOverflow s.fetch s t ∧ Frame [.record] s t) ∧
  (∀ s : State, s.halt = false → decode s.fetch = .ok .ret → s.sp.val = 0 →
    ∃ t, step s = .next t ∧ Faulted .stackUnderflow s.fetch s t ∧ Frame [.record] s t)

/-- 40_step_cycle.md R128: a step while halted changes no state at all, and the port reports the recorded fault
again. D18 (log 18). -/
def Obligations.HaltedStepChangesNothing : Prop :=
  ∀ s : State, s.halt = true →
    Move.apply .step s = .next (.record ⟨true, s.fcause.code, s.fopcode, s.fpc⟩, s)

/-- The step is total: it always answers a next state, never a stop of the model (00_scope.md R11 and
60_exceptions.md R270: the only faults are the three that are recorded in state, log 28). -/
def Obligations.StepAlwaysAnswersANextState : Prop :=
  ∀ s : State, ∃ t, step s = .next t

/-! ### Control transfer -/

/-- 41_control_flow.md R140, 00EE. The slot discipline is D26 (log 26), the 12-bit result D3 (log 3). -/
def Obligations.RetPopsTheCallSite : Prop :=
  ∀ (s : State) (k : Nat) (h : k < 16), s.sp.val = k + 1 →
    ∃ t, exec .ret s = .next t ∧ t.sp.val = k ∧ t.pc.toNat = ((s.stack[k]'h).toNat + 2) % 4096 ∧
      Frame [.sp, .pc] s t

/-- 60_exceptions.md R274: raised by 00EE when SP = 0; SP and PC stay. The record's form is D17 (log 17). -/
def Obligations.RetOnAnEmptyStackUnderflows : Prop :=
  ∀ s : State, s.sp.val = 0 →
    ∃ t, exec .ret s = .next t ∧ t.halt = true ∧ t.fcause = .stackUnderflow ∧ t.sp.val = 0 ∧ t.pc = s.pc ∧
      Frame [.record] s t

/-- 41_control_flow.md R141, 1nnn. -/
def Obligations.JpSetsPc : Prop :=
  (∀ op : Word, op &&& 0xF000#16 = 0x1000#16 → decode op = .ok (.jp (op.extractLsb' 0 12))) ∧
  ∀ (s : State) (nnn : Addr), ∃ t, exec (.jp nnn) s = .next t ∧ t.pc.toNat = nnn.toNat ∧ Frame [.pc] s t

/-- 41_control_flow.md R142, 2nnn, and 60_exceptions.md R273: the call site itself is pushed; with SP = 16 the
overflow is raised and nothing is pushed. The slots are D26 (log 26), the record's form D17 (log 17). -/
def Obligations.CallPushesTheCallSite : Prop :=
  (∀ op : Word, op &&& 0xF000#16 = 0x2000#16 → decode op = .ok (.call (op.extractLsb' 0 12))) ∧
  (∀ (s : State) (nnn : Addr), s.sp.val < 16 →
    ∃ t, exec (.call nnn) s = .next t ∧
      (∀ k, (h : k < 16) → t.stack[k] = if k = s.sp.val then s.pc else s.stack[k]) ∧
      t.sp.val = s.sp.val + 1 ∧ t.pc.toNat = nnn.toNat ∧ Frame [.stack, .sp, .pc] s t) ∧
  (∀ (s : State) (nnn : Addr), s.sp.val = 16 →
    ∃ t, exec (.call nnn) s = .next t ∧ t.halt = true ∧ t.fcause = .stackOverflow ∧
      t.fopcode = encode (.call nnn) ∧ t.fpc = s.pc ∧ t.sp.val = 16 ∧ t.pc = s.pc ∧ Frame [.record] s t)

/-- 41_control_flow.md R143 to R146: the four register skips. The wrap at 0xFFF is D3 (log 3). -/
def Obligations.RegisterSkipsCompareAllBits : Prop :=
  ∀ (s : State) (x y : Reg) (nn : Byte),
    (∃ t, exec (.seImm x nn) s = .next t ∧ Frame [.pc] s t ∧
      t.pc.toNat = (s.pc.toNat + if s.readV x = nn then 4 else 2) % 4096) ∧
    (∃ t, exec (.sneImm x nn) s = .next t ∧ Frame [.pc] s t ∧
      t.pc.toNat = (s.pc.toNat + if s.readV x = nn then 2 else 4) % 4096) ∧
    (∃ t, exec (.seReg x y) s = .next t ∧ Frame [.pc] s t ∧
      t.pc.toNat = (s.pc.toNat + if s.readV x = s.readV y then 4 else 2) % 4096) ∧
    (∃ t, exec (.sneReg x y) s = .next t ∧ Frame [.pc] s t ∧
      t.pc.toNat = (s.pc.toNat + if s.readV x = s.readV y then 2 else 4) % 4096)

/-- 41_control_flow.md R147, Bnnn: always V[0], and VF untouched. The 12-bit result is D3 (log 3). -/
def Obligations.JpV0AddsV0 : Prop :=
  ∀ (s : State) (nnn : Addr), ∃ t, exec (.jpV0 nnn) s = .next t ∧
    t.pc.toNat = (nnn.toNat + (s.readV 0x0#4).toNat) % 4096 ∧ Frame [.pc] s t

/-- Source example S8: a call and the return from it resume after the call site with SP as before it; of the stack only
the entry pushed, which is dead then, may differ. D3 (log 3), the slots D26 (log 26). -/
def Obligations.ReturnResumesAfterTheCall : Prop :=
  ∀ (s t u : State) (nnn : Addr), s.sp.val < 16 → exec (.call nnn) s = .next t → exec .ret t = .next u →
    u.pc.toNat = (s.pc.toNat + 2) % 4096 ∧ u.sp = s.sp ∧
      (∀ k, (h : k < 16) → k ≠ s.sp.val → u.stack[k] = s.stack[k]) ∧ Frame [.pc, .stack] s u

/-! ### Load immediate, add immediate, register-register ALU -/

/-- 42_alu.md R160, 6xnn: VF is a register like any other. -/
def Obligations.LdImmLoadsTheImmediate : Prop :=
  (∀ op : Word, op &&& 0xF000#16 = 0x6000#16 →
    decode op = .ok (.ldImm (op.extractLsb' 8 4) (op.extractLsb' 0 8))) ∧
  ∀ (s : State) (x : Reg) (nn : Byte), ∃ t, exec (.ldImm x nn) s = .next t ∧
    (∀ r, t.readV r = if r = x then nn else s.readV r) ∧ Frame [.v, .pc] s t

/-- 42_alu.md R161, 7xnn: wraps modulo 256 and touches no flag. -/
def Obligations.AddImmWrapsWithoutFlag : Prop :=
  (∀ op : Word, op &&& 0xF000#16 = 0x7000#16 →
    decode op = .ok (.addImm (op.extractLsb' 8 4) (op.extractLsb' 0 8))) ∧
  ∀ (s : State) (x : Reg) (nn : Byte), ∃ t, exec (.addImm x nn) s = .next t ∧
    (t.readV x).toNat = ((s.readV x).toNat + nn.toNat) % 256 ∧ (∀ r, r ≠ x → t.readV r = s.readV r) ∧
    Frame [.v, .pc] s t

/-- 42_alu.md R162 to R165, 8xy0 to 8xy3: bit by bit, VF untouched unless it is V[x]. The digits 1, 2, 3 are general
knowledge (D7, log 7); that VF is not written is D12 (log 12). -/
def Obligations.CopyAndLogicWriteOnlyVx : Prop :=
  ∀ (s : State) (x y : Reg),
    (∃ t, exec (.ldReg x y) s = .next t ∧ t.readV x = s.readV y ∧
      (∀ r, r ≠ x → t.readV r = s.readV r) ∧ Frame [.v, .pc] s t) ∧
    (∃ t, exec (.orReg x y) s = .next t ∧
      (∀ k < 8, (t.readV x).getLsbD k = ((s.readV x).getLsbD k || (s.readV y).getLsbD k)) ∧
      (∀ r, r ≠ x → t.readV r = s.readV r) ∧ Frame [.v, .pc] s t) ∧
    (∃ t, exec (.andReg x y) s = .next t ∧
      (∀ k < 8, (t.readV x).getLsbD k = ((s.readV x).getLsbD k && (s.readV y).getLsbD k)) ∧
      (∀ r, r ≠ x → t.readV r = s.readV r) ∧ Frame [.v, .pc] s t) ∧
    (∃ t, exec (.xorReg x y) s = .next t ∧
      (∀ k < 8, (t.readV x).getLsbD k = ((s.readV x).getLsbD k ^^ (s.readV y).getLsbD k)) ∧
      (∀ r, r ≠ x → t.readV r = s.readV r) ∧ Frame [.v, .pc] s t)

/-- 42_alu.md R166, R171, 8xy4: with x = 15 VF ends as the carry, D10 (log 10). -/
def Obligations.AddRegCarriesIntoVf : Prop :=
  ∀ (s : State) (x y : Reg), ∃ t, exec (.addReg x y) s = .next t ∧
    (x ≠ Reg.vf → (t.readV x).toNat = ((s.readV x).toNat + (s.readV y).toNat) % 256) ∧
    (t.readV Reg.vf).toNat = (if 255 < (s.readV x).toNat + (s.readV y).toNat then 1 else 0) ∧
    (∀ r, r ≠ x → r ≠ Reg.vf → t.readV r = s.readV r) ∧ Frame [.v, .pc] s t

/-- 42_alu.md R167, R169, R171, 8xy5 and 8xy7: VF = 1 means no borrow, also at equality, D11 (log 11); with x = 15 VF
ends as the flag, D10 (log 10); the digit 7 is general knowledge, D7 (log 7). -/
def Obligations.SubtractionsSetVfWhenNoBorrow : Prop :=
  ∀ (s : State) (x y : Reg),
    (∃ t, exec (.sub x y) s = .next t ∧
      (x ≠ Reg.vf → (t.readV x).toNat = ((s.readV x).toNat + 256 - (s.readV y).toNat) % 256) ∧
      (t.readV Reg.vf).toNat = (if (s.readV y).toNat ≤ (s.readV x).toNat then 1 else 0) ∧
      (∀ r, r ≠ x → r ≠ Reg.vf → t.readV r = s.readV r) ∧ Frame [.v, .pc] s t) ∧
    (∃ t, exec (.subn x y) s = .next t ∧
      (x ≠ Reg.vf → (t.readV x).toNat = ((s.readV y).toNat + 256 - (s.readV x).toNat) % 256) ∧
      (t.readV Reg.vf).toNat = (if (s.readV x).toNat ≤ (s.readV y).toNat then 1 else 0) ∧
      (∀ r, r ≠ x → r ≠ Reg.vf → t.readV r = s.readV r) ∧ Frame [.v, .pc] s t)

/-- 42_alu.md R168, R170, R171, 8xy6 and 8xyE: V[x] is shifted and V[y] plays no part, D8 (log 8); VF is the bit
shifted out, also with x = 15, D10 (log 10); the digits 6 and E are D7 (log 7). -/
def Obligations.ShiftsMoveVxByOne : Prop :=
  ∀ (s : State) (x y : Reg),
    (∃ t, exec (.shr x y) s = .next t ∧ (x ≠ Reg.vf → (t.readV x).toNat = (s.readV x).toNat / 2) ∧
      (t.readV Reg.vf).toNat = (s.readV x).toNat % 2 ∧
      (∀ r, r ≠ x → r ≠ Reg.vf → t.readV r = s.readV r) ∧ Frame [.v, .pc] s t) ∧
    (∃ t, exec (.shl x y) s = .next t ∧ (x ≠ Reg.vf → (t.readV x).toNat = (s.readV x).toNat * 2 % 256) ∧
      (t.readV Reg.vf).toNat = (s.readV x).toNat / 128 ∧
      (∀ r, r ≠ x → r ≠ Reg.vf → t.readV r = s.readV r) ∧ Frame [.v, .pc] s t)

/-! ### Index register and memory -/

/-- 43_index_memory.md R190, Annn. -/
def Obligations.LdILoadsTheAddress : Prop :=
  (∀ op : Word, op &&& 0xF000#16 = 0xA000#16 → decode op = .ok (.ldI (op.extractLsb' 0 12))) ∧
  ∀ (s : State) (nnn : Addr), ∃ t, exec (.ldI nnn) s = .next t ∧ t.i.toNat = nnn.toNat ∧ Frame [.i, .pc] s t

/-- 43_index_memory.md R191, Fx1E: the flag is from the unreduced sum. That I keeps only 12 bits is D2 (log 2); with
x = 15 the old VF is the addend, D10 (log 10). -/
def Obligations.AddIKeepsTwelveBitsAndFlagsOverflow : Prop :=
  ∀ (s : State) (x : Reg), ∃ t, exec (.addI x) s = .next t ∧
    t.i.toNat = (s.i.toNat + (s.readV x).toNat) % 4096 ∧
    (t.readV Reg.vf).toNat = (if 0x0FFF < s.i.toNat + (s.readV x).toNat then 1 else 0) ∧
    (∀ r, r ≠ Reg.vf → t.readV r = s.readV r) ∧ Frame [.v, .i, .pc] s t

/-- 43_index_memory.md R192, Fx29: all 8 bits of V[x], no nibble mask. -/
def Obligations.LdFPointsAtTheGlyph : Prop :=
  (∀ op : Word, op &&& 0xF0FF#16 = 0xF029#16 → decode op = .ok (.ldF (op.extractLsb' 8 4))) ∧
  ∀ (s : State) (x : Reg), ∃ t, exec (.ldF x) s = .next t ∧ t.i.toNat = (s.readV x).toNat * 5 ∧
    Frame [.i, .pc] s t

/-- 43_index_memory.md R193, Fx33: three bytes and no other; the wrap at the top of memory is D1 (log 1). -/
def Obligations.LdBStoresThreeDecimalDigits : Prop :=
  ∀ (s : State) (x : Reg), ∃ t, exec (.ldB x) s = .next t ∧
    (t.memRead s.i.toNat).toNat = (s.readV x).toNat / 100 ∧
    (t.memRead (s.i.toNat + 1)).toNat = (s.readV x).toNat / 10 % 10 ∧
    (t.memRead (s.i.toNat + 2)).toNat = (s.readV x).toNat % 10 ∧
    (∀ a, (∀ k < 3, a % 4096 ≠ (s.i.toNat + k) % 4096) → t.memRead a = s.memRead a) ∧
    Frame [.mem, .pc] s t

/-- 43_index_memory.md R194, Fx55: V[0] to V[x] at I upward, and no other byte; I is unchanged, D13 (log 13); the wrap
is D1 (log 1). -/
def Obligations.StRegsStoresV0ToVx : Prop :=
  ∀ (s : State) (x : Reg), ∃ t, exec (.stRegs x) s = .next t ∧
    (∀ r : Reg, r.toNat ≤ x.toNat → t.memRead (s.i.toNat + r.toNat) = s.readV r) ∧
    (∀ a, (∀ k ≤ x.toNat, a % 4096 ≠ (s.i.toNat + k) % 4096) → t.memRead a = s.memRead a) ∧
    Frame [.mem, .pc] s t

/-- 43_index_memory.md R195, Fx65: V[0] to V[x] and no register above; I is unchanged, D13 (log 13). -/
def Obligations.LdRegsLoadsV0ToVx : Prop :=
  ∀ (s : State) (x : Reg), ∃ t, exec (.ldRegs x) s = .next t ∧
    (∀ r : Reg, t.readV r = if r.toNat ≤ x.toNat then s.memRead (s.i.toNat + r.toNat) else s.readV r) ∧
    Frame [.v, .pc] s t

/-- Fx55 and then Fx65 with any registers between give the stored registers back (43_index_memory.md R194, R195;
I unchanged, D13, log 13). -/
def Obligations.StoredRegistersLoadBack : Prop :=
  ∀ (s t u : State) (x : Reg) (w : Vector Byte 16), exec (.stRegs x) s = .next t →
    exec (.ldRegs x) { t with v := w } = .next u → ∀ r : Reg, r.toNat ≤ x.toNat → u.readV r = s.readV r

/-- 20_memory.md R73: bytes stored by Fx55 are what the very next fetch reads when PC reaches them. -/
def Obligations.StoredBytesAreFetched : Prop :=
  ∀ (s t : State) (x q r : Reg), exec (.stRegs x) s = .next t → r.toNat ≤ x.toNat → q.toNat + 1 = r.toNat →
    t.pc.toNat % 4096 = (s.i.toNat + q.toNat) % 4096 → t.fetch = s.readV q ++ s.readV r

/-! ### Random number, keys, timers -/

/-- 44_random_keys_timers.md R210, Cxnn, for every value the free input may present: the statement rests on no value
of `Config.rnd8` (D16, log 16). -/
def Obligations.RndMasksTheFreeByte : Prop :=
  ∀ (s : State) (x : Reg) (nn : Byte), ∃ t, exec (.rnd x nn) s = .next t ∧
    t.readV x = Config.rnd8 s.rndIndex &&& nn ∧ (t.readV x).toNat ≤ nn.toNat ∧
    (∀ k < 8, nn.getLsbD k = false → (t.readV x).getLsbD k = false) ∧
    (∀ r, r ≠ x → t.readV r = s.readV r) ∧ t.rndIndex = s.rndIndex + 1 ∧ Frame [.v, .pc, .rnd] s t

/-- 44_random_keys_timers.md R211, R212, Ex9E and ExA1: the key is V[x]'s low nibble, D14 (log 14); PC's wrap is D3
(log 3). -/
def Obligations.KeySkipsTestTheNamedKey : Prop :=
  ∀ (s : State) (x : Reg),
    (∃ t, exec (.skp x) s = .next t ∧ Frame [.pc] s t ∧
      t.pc.toNat = (s.pc.toNat + if s.key.getLsbD ((s.readV x).toNat % 16) = true then 4 else 2) % 4096) ∧
    (∃ t, exec (.sknp x) s = .next t ∧ Frame [.pc] s t ∧
      t.pc.toNat = (s.pc.toNat + if s.key.getLsbD ((s.readV x).toNat % 16) = true then 2 else 4) % 4096)

/-- 44_random_keys_timers.md R214, Fx0A: with no key pressed nothing is written; else V[x] is the least pressed key,
D15 (log 15), and PC advances. -/
def Obligations.LdVxKWaitsThenReportsTheLeastKey : Prop :=
  (∀ (s : State) (x : Reg), (∀ k < 16, s.key.getLsbD k = false) → exec (.ldVxK x) s = .next s) ∧
  (∀ (s : State) (x : Reg) (k : Nat), k < 16 → s.key.getLsbD k = true → (∀ j < k, s.key.getLsbD j = false) →
    ∃ t, exec (.ldVxK x) s = .next t ∧ (t.readV x).toNat = k ∧ (∀ r, r ≠ x → t.readV r = s.readV r) ∧
      t.pc.toNat = (s.pc.toNat + 2) % 4096 ∧ Frame [.v, .pc] s t)

/-- 44_random_keys_timers.md R213, R215, R216: Fx07, Fx15, Fx18 before the tick. Which opcode does what is general
knowledge, D9 (log 9). -/
def Obligations.TimerInstructionsMoveTheTimers : Prop :=
  ∀ (s : State) (x : Reg),
    (∃ t, exec (.ldVxDt x) s = .next t ∧ (∀ r, t.readV r = if r = x then s.dt else s.readV r) ∧
      Frame [.v, .pc] s t) ∧
    (∃ t, exec (.ldDtVx x) s = .next t ∧ t.dt = s.readV x ∧ Frame [.dt, .pc] s t) ∧
    (∃ t, exec (.ldStVx x) s = .next t ∧ t.st = s.readV x ∧ Frame [.st, .pc] s t)

/-- 40_step_cycle.md R126 a, b, c for one step: Fx07 reads DT before the tick; after Fx15 DT is one less than V[x];
in every other completed step DT falls by one, staying at 0. D9 (log 9). -/
def Obligations.DelayTimerFallsByOnePerStep : Prop :=
  (∀ (s : State) (x : Reg), s.halt = false → decode s.fetch = .ok (.ldVxDt x) →
    ∃ t, step s = .next t ∧ t.readV x = s.dt ∧ t.dt.toNat = s.dt.toNat - 1) ∧
  (∀ (s : State) (x : Reg), s.halt = false → decode s.fetch = .ok (.ldDtVx x) →
    ∃ t, step s = .next t ∧ t.dt.toNat = (s.readV x).toNat - 1) ∧
  (∀ (s t : State) (i : Instr), s.halt = false → decode s.fetch = .ok i → (∀ x, i ≠ .ldDtVx x) →
    step s = .next t → t.halt = false → t.dt.toNat = s.dt.toNat - 1)

/-! ### Display -/

/-- 45_display.md R230, 00E0: every cell 0, DF 1, VF untouched. PC's wrap is D3 (log 3). -/
def Obligations.ClsClearsEveryCell : Prop :=
  ∀ s : State, ∃ t, exec .cls s = .next t ∧ (∀ p < 2048, t.fb.getPixel p = false) ∧
    t.fb.snapshot = List.replicate 2048 false ∧ t.df = true ∧ t.pc.toNat = (s.pc.toNat + 2) % 4096 ∧
    Frame [.fb, .df, .pc] s t

/-- 45_display.md R231, R233, Dxyn: each cell is inverted exactly when a set sprite bit covers it, VF is 1 exactly when
a covered cell was on, whatever the order of the loops; DF is set. The bit order is general knowledge, D6 (log 6); the
coordinates are the old V[x], V[y], D10 (log 10); n = 0 is D23 (log 23); the wrap of row addresses is D1 (log 1). -/
def Obligations.DrwXorsTheSpriteImage : Prop :=
  ∀ (s : State) (x y : Reg) (n : Nibble), ∃ t, exec (.drw x y n) s = .next t ∧
    (∀ p < 2048, t.fb.getPixel p ≠ s.fb.getPixel p ↔
      SpriteCovers s (s.readV x).toNat (s.readV y).toNat n.toNat p) ∧
    (t.readV Reg.vf = 0x01#8 ↔
      ∃ p < 2048, SpriteCovers s (s.readV x).toNat (s.readV y).toNat n.toNat p ∧ s.fb.getPixel p = true) ∧
    (t.readV Reg.vf = 0x00#8 ∨ t.readV Reg.vf = 0x01#8) ∧
    (∀ r, r ≠ Reg.vf → t.readV r = s.readV r) ∧ t.df = true ∧
    t.pc.toNat = (s.pc.toNat + 2) % 4096 ∧ Frame [.v, .fb, .df, .pc] s t

/-- 45_display.md R234: drawing the same sprite twice restores the framebuffer, and VF after the second draw is 1
exactly when some covered cell was 0 before the first. -/
def Obligations.DrawingTwiceRestoresTheFramebuffer : Prop :=
  ∀ (s t u : State) (x y : Reg) (n : Nibble), x ≠ Reg.vf → y ≠ Reg.vf →
    exec (.drw x y n) s = .next t → exec (.drw x y n) t = .next u →
    u.fb = s.fb ∧ (u.readV Reg.vf = 0x01#8 ↔
      ∃ p < 2048, SpriteCovers s (s.readV x).toNat (s.readV y).toNat n.toNat p ∧ s.fb.getPixel p = false)

/-! ### The whole machine -/

/-- 10_state.md R20, R22, R23: what each instruction may write, over all 34; every other part of the state is the
same after it. The fault record is D17 (log 17). -/
def Obligations.OnlyNamedInstructionsWriteEachPart : Prop :=
  ∀ (i : Instr) (s t : State), exec i s = .next t → Frame (mayWrite i) s t

/-- 10_state.md R22, R23: a register changes only where the instruction's fields name it or VF is written as a flag;
a flag is 0x00 or 0x01 as a full register value. The shifts, logic operations and flag order are the spec's decisions
D8, D10, D12 (log 8, 10, 12). -/
def Obligations.VfIsWrittenOnlyAsFlagOrDestination : Prop :=
  (∀ (i : Instr) (s t : State) (r : Reg), exec i s = .next t → namesForWriting i r = false →
    (writesFlag i = true → r ≠ Reg.vf) → t.readV r = s.readV r) ∧
  (∀ (i : Instr) (s t : State), exec i s = .next t → writesFlag i = true →
    t.readV Reg.vf = 0x00#8 ∨ t.readV Reg.vf = 0x01#8)

/-- 40_step_cycle.md R124: PC after every instruction, by its class, masked to 12 bits, D3 (log 3). -/
def Obligations.PcFollowsItsClass : Prop :=
  ∀ (i : Instr) (s t : State), exec i s = .next t → t.pc.toNat = nextPc i s

/-- 44_random_keys_timers.md R217 and 46_host_operations.md R256: KEY reaches only Ex9E, ExA1 and Fx0A, and the random
input only Cxnn; every other instruction does the same whatever they hold, and passes them on; and no instruction
writes KEY. The random input's form is D16 (log 16). -/
def Obligations.InputsReachOnlyTheirInstructions : Prop :=
  ∀ (i : Instr) (s t : State), exec i s = .next t →
    t.key = s.key ∧
    (∀ k : BitVec 16, (∀ x, i ≠ .skp x) → (∀ x, i ≠ .sknp x) → (∀ x, i ≠ .ldVxK x) →
      exec i { s with key := k } = .next { t with key := k }) ∧
    (∀ m : Nat, (∀ x nn, i ≠ .rnd x nn) → exec i { s with rndIndex := m } = .next { t with rndIndex := m })

/-- 10_state.md R26, R29, R34: no program can tell ST, DF or a dead stack entry: two states that agree on the rest
still agree on it after a step of each. That dead entries keep their bits is D26 (log 26). -/
def Obligations.ProgramsCannotTellStDfOrDeadEntries : Prop :=
  ∀ s s' t : State, SameToPrograms s s' → step s = .next t → ∃ t', step s' = .next t' ∧ SameToPrograms t t'

/-- 40_step_cycle.md R131: a jump to itself with both timers at 0 is a fixed point of the step. -/
def Obligations.QuiescentStateIsFixed : Prop :=
  ∀ s : State, s.Quiescent → step s = .next s

/-- 60_exceptions.md R287 c: at an Fx0A with no key pressed a step changes the timers only. -/
def Obligations.WaitingStepOnlyTicks : Prop :=
  ∀ s : State, s.Waiting →
    ∃ t, step s = .next t ∧ t.dt.toNat = s.dt.toNat - 1 ∧ t.st.toNat = s.st.toNat - 1 ∧ Frame [.dt, .st] s t ∧
      t.Waiting

/-! ### Reset, the host's ports, the invariant -/

/-- 10_state.md R37: memory, every register and every flag after reset. The fontset's bytes are general knowledge, D5
(log 5), named here as FONT only; PC is D4 (log 4); DF, KEY, the timers and the fault record
are D20 (log 20). The model's `rndIndex` is left out: nothing may rest on it (log 16). -/
def Obligations.ResetLeavesTheTableValues : Prop :=
  (∀ r, State.reset.readV r = 0x00#8) ∧ State.reset.i = 0x0000#16 ∧ State.reset.pc = 0x0200#16 ∧
  (∀ k, (h : k < 16) → State.reset.stack[k] = 0x0000#16) ∧ State.reset.sp.val = 0 ∧
  State.reset.dt = 0x00#8 ∧ State.reset.st = 0x00#8 ∧ State.reset.key = 0x0000#16 ∧
  (∀ p < 2048, State.reset.fb.getPixel p = false) ∧ State.reset.df = false ∧ State.reset.halt = false ∧
  State.reset.fcause = .none ∧ State.reset.fopcode = 0x0000#16 ∧ State.reset.fpc = 0x0000#16 ∧
  (∀ a < 0x050, State.reset.memRead a = Config.font.getD a 0) ∧
  (∀ a, 0x050 ≤ a → a < 4096 → State.reset.memRead a = 0x00#8)

/-- 46_host_operations.md R251: `load` of at most 3584 bytes is a full reset with the ROM at 0x200, whatever the state
was; a longer ROM changes nothing. The bound is D30 (log 29), the values D4, D5, D20 (log 4, 5, 20). -/
def Obligations.LoadResetsAndPlacesTheRom : Prop :=
  (∀ (s : State) (rom : List Byte), rom.length ≤ 3584 →
    ∃ t, hostOp (.load rom) s = (.ok, t) ∧
      (∀ a < 4096, t.memRead a =
        if 0x200 ≤ a ∧ a < 0x200 + rom.length then rom.getD (a - 0x200) 0 else State.reset.memRead a) ∧
      Frame [.mem, .rnd] State.reset t) ∧
  (∀ (s : State) (rom : List Byte), 3584 < rom.length → hostOp (.load rom) s = (.loadError, s))

/-- 46_host_operations.md R253: one key bit is written, or KeyIndexError and no change for an index above 15. D22
(log 22). -/
def Obligations.SetKeyWritesOneBit : Prop :=
  (∀ (s : State) (k : Nat) (pressed : Bool), k ≤ 15 →
    ∃ t, hostOp (.setKey k pressed) s = (.ok, t) ∧
      (∀ j < 16, t.key.getLsbD j = if j = k then pressed else s.key.getLsbD j) ∧ Frame [.key] s t) ∧
  (∀ (s : State) (k : Nat) (pressed : Bool), 15 < k → hostOp (.setKey k pressed) s = (.keyIndexError, s))

/-- 46_host_operations.md R254: the snapshot in index order, the two sizes, and no state changed. -/
def Obligations.SnapshotIsTheCellsInIndexOrder : Prop :=
  ∀ s : State, (∃ cells, hostOp .displaySnapshot s = (.cells cells, s) ∧ cells.length = 2048 ∧
      ∀ cy, (h : cy < 32) → ∀ cx < 64, cells[cy * 64 + cx]? = some ((s.fb[cy]'h).getLsbD cx)) ∧
    hostOp .displayWidth s = (.number 64, s) ∧ hostOp .displayHeight s = (.number 32, s)

/-- 46_host_operations.md R255: read and clear, and the only way DF becomes 0 other than reset. -/
def Obligations.TakeDrawFlagReadsAndClears : Prop :=
  (∀ s : State, ∃ t, hostOp .takeDrawFlag s = (.flag s.df, t) ∧ t.df = false ∧ Frame [.df] s t) ∧
  (∀ (m : Move) (s t : State) (r : Reply), m.apply s = .next (r, t) → m ≠ .host .takeDrawFlag →
    (∀ rom, m ≠ .host (.load rom)) → s.df = true → t.df = true)

/-- 46_host_operations.md R257, R258: the record is all zero while HALT = 0 (D17, log 17), and sound is active exactly
when ST is not 0 (D25, log 25); neither port changes anything. -/
def Obligations.StatusPortsReadTheRegisters : Prop :=
  ∀ s : State,
    hostOp .faultStatus s = (.record ⟨s.halt, s.fcause.code, s.fopcode, s.fpc⟩, s) ∧
    (s.Inv → s.halt = false → hostOp .faultStatus s = (.record ⟨false, 0, 0, 0⟩, s)) ∧
    hostOp .soundActive s = (.flag (decide (0 < s.st.toNat)), s)

/-- 60_exceptions.md R279 and 70_reset_and_hazards.md R310: once halted, only `load` clears HALT, and until then the
record keeps the first fault. D18 (log 18). -/
def Obligations.OnlyLoadLeavesTheHaltedState : Prop :=
  ∀ (m : Move) (s t : State) (r : Reply), s.halt = true → m.apply s = .next (r, t) →
    (∀ rom, m ≠ .host (.load rom)) →
    t.halt = true ∧ t.fcause = s.fcause ∧ t.fopcode = s.fopcode ∧ t.fpc = s.fpc ∧ t.pc = s.pc

/-- 10_state.md R38 after reset. -/
def Obligations.ResetSatisfiesTheInvariant : Prop := State.reset.Inv

/-- 10_state.md R38 after every step, from every state that has it. D2, D3 (log 2, 3) give the 12-bit registers. -/
def Obligations.EveryStepKeepsTheInvariant : Prop :=
  ∀ s t : State, s.Inv → step s = .next t → t.Inv

/-- 10_state.md R38 after every host operation, from every state that has it. -/
def Obligations.EveryHostOperationKeepsTheInvariant : Prop :=
  ∀ (op : HostOp) (s : State), s.Inv → (hostOp op s).2.Inv
end

