-- ==== Sys2Proof/Laws/Bits.lean ====
section
/-! SUPPORT. The digits of a 16-bit opcode: masks and fields of words written digit by digit. -/

namespace Sys2Proof

theorem mask_nnn (d : BitVec 4) (k : Addr) : (d ++ k : Word) &&& 0xF000#16 = (d ++ 0#12 : Word) := by
  have h : (d ++ k : Word) &&& (BitVec.allOnes 4 ++ 0#12) = ((d &&& BitVec.allOnes 4) ++ (k &&& 0#12) : Word) :=
    BitVec.and_append
  rwa [BitVec.and_allOnes, BitVec.and_zero] at h

theorem mask_xnn (d x : BitVec 4) (k : Byte) : (d ++ x ++ k : Word) &&& 0xF000#16 = (d ++ 0#4 ++ 0#8 : Word) := by
  have h : (d ++ x ++ k : Word) &&& ((BitVec.allOnes 4 ++ 0#4 : BitVec 8) ++ 0#8) =
      (((d ++ x : BitVec 8) &&& (BitVec.allOnes 4 ++ 0#4)) ++ (k &&& 0#8) : Word) := BitVec.and_append
  have h' : ((d ++ x : BitVec 8) &&& (BitVec.allOnes 4 ++ 0#4)) =
      ((d &&& BitVec.allOnes 4) ++ (x &&& 0#4) : BitVec 8) := BitVec.and_append
  rw [h', BitVec.and_allOnes, BitVec.and_zero, BitVec.and_zero] at h
  exact h

theorem mask_x (d x : BitVec 4) (k : Byte) : (d ++ x ++ k : Word) &&& 0xF0FF#16 = (d ++ 0#4 ++ k : Word) := by
  have h : (d ++ x ++ k : Word) &&& ((BitVec.allOnes 4 ++ 0#4 : BitVec 8) ++ BitVec.allOnes 8) =
      (((d ++ x : BitVec 8) &&& (BitVec.allOnes 4 ++ 0#4)) ++ (k &&& BitVec.allOnes 8) : Word) := BitVec.and_append
  have h' : ((d ++ x : BitVec 8) &&& (BitVec.allOnes 4 ++ 0#4)) =
      ((d &&& BitVec.allOnes 4) ++ (x &&& 0#4) : BitVec 8) := BitVec.and_append
  rw [h', BitVec.and_allOnes, BitVec.and_zero, BitVec.and_allOnes] at h
  exact h

theorem mask_xy (d x y n : BitVec 4) :
    (d ++ x ++ y ++ n : Word) &&& 0xF00F#16 = (d ++ 0#4 ++ 0#4 ++ n : Word) := by
  have h : (d ++ x ++ y ++ n : Word) &&& ((BitVec.allOnes 4 ++ 0#4 ++ 0#4 : BitVec 12) ++ BitVec.allOnes 4) =
      (((d ++ x ++ y : BitVec 12) &&& (BitVec.allOnes 4 ++ 0#4 ++ 0#4)) ++ (n &&& BitVec.allOnes 4) : Word) :=
    BitVec.and_append
  have h' : ((d ++ x ++ y : BitVec 12) &&& ((BitVec.allOnes 4 ++ 0#4 : BitVec 8) ++ 0#4)) =
      (((d ++ x : BitVec 8) &&& (BitVec.allOnes 4 ++ 0#4)) ++ (y &&& 0#4) : BitVec 12) := BitVec.and_append
  have h'' : ((d ++ x : BitVec 8) &&& (BitVec.allOnes 4 ++ 0#4)) =
      ((d &&& BitVec.allOnes 4) ++ (x &&& 0#4) : BitVec 8) := BitVec.and_append
  rw [h', h'', BitVec.and_allOnes, BitVec.and_zero, BitVec.and_allOnes, BitVec.and_zero] at h
  exact h

theorem mask_xyn (d x y n : BitVec 4) :
    (d ++ x ++ y ++ n : Word) &&& 0xF000#16 = (d ++ 0#4 ++ 0#4 ++ 0#4 : Word) := by
  have h : (d ++ x ++ y ++ n : Word) &&& ((BitVec.allOnes 4 ++ 0#4 ++ 0#4 : BitVec 12) ++ 0#4) =
      (((d ++ x ++ y : BitVec 12) &&& (BitVec.allOnes 4 ++ 0#4 ++ 0#4)) ++ (n &&& 0#4) : Word) :=
    BitVec.and_append
  have h' : ((d ++ x ++ y : BitVec 12) &&& ((BitVec.allOnes 4 ++ 0#4 : BitVec 8) ++ 0#4)) =
      (((d ++ x : BitVec 8) &&& (BitVec.allOnes 4 ++ 0#4)) ++ (y &&& 0#4) : BitVec 12) := BitVec.and_append
  have h'' : ((d ++ x : BitVec 8) &&& (BitVec.allOnes 4 ++ 0#4)) =
      ((d &&& BitVec.allOnes 4) ++ (x &&& 0#4) : BitVec 8) := BitVec.and_append
  rw [h', h'', BitVec.and_allOnes, BitVec.and_zero, BitVec.and_zero, BitVec.and_zero] at h
  exact h

end Sys2Proof
end

