-- ==== Sys2Proof/Laws/State.lean ====
section
/-! SUPPORT. What each named update of State leaves in each field: true by definition, for simp. -/

namespace Sys2Proof.Machine

variable (s : State)

/-! ### memWrite -/

@[simp] theorem State.memWrite_v (a : Nat) (b : Byte) : (s.memWrite a b).v = s.v := rfl
@[simp] theorem State.memWrite_i (a : Nat) (b : Byte) : (s.memWrite a b).i = s.i := rfl
@[simp] theorem State.memWrite_pc (a : Nat) (b : Byte) : (s.memWrite a b).pc = s.pc := rfl
@[simp] theorem State.memWrite_stack (a : Nat) (b : Byte) : (s.memWrite a b).stack = s.stack := rfl
@[simp] theorem State.memWrite_sp (a : Nat) (b : Byte) : (s.memWrite a b).sp = s.sp := rfl
@[simp] theorem State.memWrite_dt (a : Nat) (b : Byte) : (s.memWrite a b).dt = s.dt := rfl
@[simp] theorem State.memWrite_st (a : Nat) (b : Byte) : (s.memWrite a b).st = s.st := rfl
@[simp] theorem State.memWrite_key (a : Nat) (b : Byte) : (s.memWrite a b).key = s.key := rfl
@[simp] theorem State.memWrite_fb (a : Nat) (b : Byte) : (s.memWrite a b).fb = s.fb := rfl
@[simp] theorem State.memWrite_df (a : Nat) (b : Byte) : (s.memWrite a b).df = s.df := rfl
@[simp] theorem State.memWrite_halt (a : Nat) (b : Byte) : (s.memWrite a b).halt = s.halt := rfl
@[simp] theorem State.memWrite_fcause (a : Nat) (b : Byte) : (s.memWrite a b).fcause = s.fcause := rfl
@[simp] theorem State.memWrite_fopcode (a : Nat) (b : Byte) : (s.memWrite a b).fopcode = s.fopcode := rfl
@[simp] theorem State.memWrite_fpc (a : Nat) (b : Byte) : (s.memWrite a b).fpc = s.fpc := rfl
@[simp] theorem State.memWrite_rndIndex (a : Nat) (b : Byte) : (s.memWrite a b).rndIndex = s.rndIndex := rfl

/-! ### writeV -/

@[simp] theorem State.writeV_mem (r : Reg) (b : Byte) : (s.writeV r b).mem = s.mem := rfl
@[simp] theorem State.writeV_i (r : Reg) (b : Byte) : (s.writeV r b).i = s.i := rfl
@[simp] theorem State.writeV_pc (r : Reg) (b : Byte) : (s.writeV r b).pc = s.pc := rfl
@[simp] theorem State.writeV_stack (r : Reg) (b : Byte) : (s.writeV r b).stack = s.stack := rfl
@[simp] theorem State.writeV_sp (r : Reg) (b : Byte) : (s.writeV r b).sp = s.sp := rfl
@[simp] theorem State.writeV_dt (r : Reg) (b : Byte) : (s.writeV r b).dt = s.dt := rfl
@[simp] theorem State.writeV_st (r : Reg) (b : Byte) : (s.writeV r b).st = s.st := rfl
@[simp] theorem State.writeV_key (r : Reg) (b : Byte) : (s.writeV r b).key = s.key := rfl
@[simp] theorem State.writeV_fb (r : Reg) (b : Byte) : (s.writeV r b).fb = s.fb := rfl
@[simp] theorem State.writeV_df (r : Reg) (b : Byte) : (s.writeV r b).df = s.df := rfl
@[simp] theorem State.writeV_halt (r : Reg) (b : Byte) : (s.writeV r b).halt = s.halt := rfl
@[simp] theorem State.writeV_fcause (r : Reg) (b : Byte) : (s.writeV r b).fcause = s.fcause := rfl
@[simp] theorem State.writeV_fopcode (r : Reg) (b : Byte) : (s.writeV r b).fopcode = s.fopcode := rfl
@[simp] theorem State.writeV_fpc (r : Reg) (b : Byte) : (s.writeV r b).fpc = s.fpc := rfl
@[simp] theorem State.writeV_rndIndex (r : Reg) (b : Byte) : (s.writeV r b).rndIndex = s.rndIndex := rfl

/-! ### writeI -/

@[simp] theorem State.writeI_mem (a : Nat) : (s.writeI a).mem = s.mem := rfl
@[simp] theorem State.writeI_v (a : Nat) : (s.writeI a).v = s.v := rfl
@[simp] theorem State.writeI_pc (a : Nat) : (s.writeI a).pc = s.pc := rfl
@[simp] theorem State.writeI_stack (a : Nat) : (s.writeI a).stack = s.stack := rfl
@[simp] theorem State.writeI_sp (a : Nat) : (s.writeI a).sp = s.sp := rfl
@[simp] theorem State.writeI_dt (a : Nat) : (s.writeI a).dt = s.dt := rfl
@[simp] theorem State.writeI_st (a : Nat) : (s.writeI a).st = s.st := rfl
@[simp] theorem State.writeI_key (a : Nat) : (s.writeI a).key = s.key := rfl
@[simp] theorem State.writeI_fb (a : Nat) : (s.writeI a).fb = s.fb := rfl
@[simp] theorem State.writeI_df (a : Nat) : (s.writeI a).df = s.df := rfl
@[simp] theorem State.writeI_halt (a : Nat) : (s.writeI a).halt = s.halt := rfl
@[simp] theorem State.writeI_fcause (a : Nat) : (s.writeI a).fcause = s.fcause := rfl
@[simp] theorem State.writeI_fopcode (a : Nat) : (s.writeI a).fopcode = s.fopcode := rfl
@[simp] theorem State.writeI_fpc (a : Nat) : (s.writeI a).fpc = s.fpc := rfl
@[simp] theorem State.writeI_rndIndex (a : Nat) : (s.writeI a).rndIndex = s.rndIndex := rfl

/-! ### writePc -/

@[simp] theorem State.writePc_mem (a : Nat) : (s.writePc a).mem = s.mem := rfl
@[simp] theorem State.writePc_v (a : Nat) : (s.writePc a).v = s.v := rfl
@[simp] theorem State.writePc_i (a : Nat) : (s.writePc a).i = s.i := rfl
@[simp] theorem State.writePc_stack (a : Nat) : (s.writePc a).stack = s.stack := rfl
@[simp] theorem State.writePc_sp (a : Nat) : (s.writePc a).sp = s.sp := rfl
@[simp] theorem State.writePc_dt (a : Nat) : (s.writePc a).dt = s.dt := rfl
@[simp] theorem State.writePc_st (a : Nat) : (s.writePc a).st = s.st := rfl
@[simp] theorem State.writePc_key (a : Nat) : (s.writePc a).key = s.key := rfl
@[simp] theorem State.writePc_fb (a : Nat) : (s.writePc a).fb = s.fb := rfl
@[simp] theorem State.writePc_df (a : Nat) : (s.writePc a).df = s.df := rfl
@[simp] theorem State.writePc_halt (a : Nat) : (s.writePc a).halt = s.halt := rfl
@[simp] theorem State.writePc_fcause (a : Nat) : (s.writePc a).fcause = s.fcause := rfl
@[simp] theorem State.writePc_fopcode (a : Nat) : (s.writePc a).fopcode = s.fopcode := rfl
@[simp] theorem State.writePc_fpc (a : Nat) : (s.writePc a).fpc = s.fpc := rfl
@[simp] theorem State.writePc_rndIndex (a : Nat) : (s.writePc a).rndIndex = s.rndIndex := rfl

/-! ### advance -/

@[simp] theorem State.advance_mem (k : Nat) : (s.advance k).mem = s.mem := rfl
@[simp] theorem State.advance_v (k : Nat) : (s.advance k).v = s.v := rfl
@[simp] theorem State.advance_i (k : Nat) : (s.advance k).i = s.i := rfl
@[simp] theorem State.advance_stack (k : Nat) : (s.advance k).stack = s.stack := rfl
@[simp] theorem State.advance_sp (k : Nat) : (s.advance k).sp = s.sp := rfl
@[simp] theorem State.advance_dt (k : Nat) : (s.advance k).dt = s.dt := rfl
@[simp] theorem State.advance_st (k : Nat) : (s.advance k).st = s.st := rfl
@[simp] theorem State.advance_key (k : Nat) : (s.advance k).key = s.key := rfl
@[simp] theorem State.advance_fb (k : Nat) : (s.advance k).fb = s.fb := rfl
@[simp] theorem State.advance_df (k : Nat) : (s.advance k).df = s.df := rfl
@[simp] theorem State.advance_halt (k : Nat) : (s.advance k).halt = s.halt := rfl
@[simp] theorem State.advance_fcause (k : Nat) : (s.advance k).fcause = s.fcause := rfl
@[simp] theorem State.advance_fopcode (k : Nat) : (s.advance k).fopcode = s.fopcode := rfl
@[simp] theorem State.advance_fpc (k : Nat) : (s.advance k).fpc = s.fpc := rfl
@[simp] theorem State.advance_rndIndex (k : Nat) : (s.advance k).rndIndex = s.rndIndex := rfl

/-! ### skipIf -/

@[simp] theorem State.skipIf_mem (c : Bool) : (s.skipIf c).mem = s.mem := rfl
@[simp] theorem State.skipIf_v (c : Bool) : (s.skipIf c).v = s.v := rfl
@[simp] theorem State.skipIf_i (c : Bool) : (s.skipIf c).i = s.i := rfl
@[simp] theorem State.skipIf_stack (c : Bool) : (s.skipIf c).stack = s.stack := rfl
@[simp] theorem State.skipIf_sp (c : Bool) : (s.skipIf c).sp = s.sp := rfl
@[simp] theorem State.skipIf_dt (c : Bool) : (s.skipIf c).dt = s.dt := rfl
@[simp] theorem State.skipIf_st (c : Bool) : (s.skipIf c).st = s.st := rfl
@[simp] theorem State.skipIf_key (c : Bool) : (s.skipIf c).key = s.key := rfl
@[simp] theorem State.skipIf_fb (c : Bool) : (s.skipIf c).fb = s.fb := rfl
@[simp] theorem State.skipIf_df (c : Bool) : (s.skipIf c).df = s.df := rfl
@[simp] theorem State.skipIf_halt (c : Bool) : (s.skipIf c).halt = s.halt := rfl
@[simp] theorem State.skipIf_fcause (c : Bool) : (s.skipIf c).fcause = s.fcause := rfl
@[simp] theorem State.skipIf_fopcode (c : Bool) : (s.skipIf c).fopcode = s.fopcode := rfl
@[simp] theorem State.skipIf_fpc (c : Bool) : (s.skipIf c).fpc = s.fpc := rfl
@[simp] theorem State.skipIf_rndIndex (c : Bool) : (s.skipIf c).rndIndex = s.rndIndex := rfl

/-! ### tick -/

@[simp] theorem State.tick_mem : (s.tick).mem = s.mem := rfl
@[simp] theorem State.tick_v : (s.tick).v = s.v := rfl
@[simp] theorem State.tick_i : (s.tick).i = s.i := rfl
@[simp] theorem State.tick_pc : (s.tick).pc = s.pc := rfl
@[simp] theorem State.tick_stack : (s.tick).stack = s.stack := rfl
@[simp] theorem State.tick_sp : (s.tick).sp = s.sp := rfl
@[simp] theorem State.tick_key : (s.tick).key = s.key := rfl
@[simp] theorem State.tick_fb : (s.tick).fb = s.fb := rfl
@[simp] theorem State.tick_df : (s.tick).df = s.df := rfl
@[simp] theorem State.tick_halt : (s.tick).halt = s.halt := rfl
@[simp] theorem State.tick_fcause : (s.tick).fcause = s.fcause := rfl
@[simp] theorem State.tick_fopcode : (s.tick).fopcode = s.fopcode := rfl
@[simp] theorem State.tick_fpc : (s.tick).fpc = s.fpc := rfl
@[simp] theorem State.tick_rndIndex : (s.tick).rndIndex = s.rndIndex := rfl

/-! ### writeWithFlag -/

@[simp] theorem State.writeWithFlag_mem (x : Reg) (b : Byte) (f : Bool) : (s.writeWithFlag x b f).mem = s.mem := rfl
@[simp] theorem State.writeWithFlag_i (x : Reg) (b : Byte) (f : Bool) : (s.writeWithFlag x b f).i = s.i := rfl
@[simp] theorem State.writeWithFlag_pc (x : Reg) (b : Byte) (f : Bool) : (s.writeWithFlag x b f).pc = s.pc := rfl
@[simp] theorem State.writeWithFlag_stack (x : Reg) (b : Byte) (f : Bool) : (s.writeWithFlag x b f).stack = s.stack := rfl
@[simp] theorem State.writeWithFlag_sp (x : Reg) (b : Byte) (f : Bool) : (s.writeWithFlag x b f).sp = s.sp := rfl
@[simp] theorem State.writeWithFlag_dt (x : Reg) (b : Byte) (f : Bool) : (s.writeWithFlag x b f).dt = s.dt := rfl
@[simp] theorem State.writeWithFlag_st (x : Reg) (b : Byte) (f : Bool) : (s.writeWithFlag x b f).st = s.st := rfl
@[simp] theorem State.writeWithFlag_key (x : Reg) (b : Byte) (f : Bool) : (s.writeWithFlag x b f).key = s.key := rfl
@[simp] theorem State.writeWithFlag_fb (x : Reg) (b : Byte) (f : Bool) : (s.writeWithFlag x b f).fb = s.fb := rfl
@[simp] theorem State.writeWithFlag_df (x : Reg) (b : Byte) (f : Bool) : (s.writeWithFlag x b f).df = s.df := rfl
@[simp] theorem State.writeWithFlag_halt (x : Reg) (b : Byte) (f : Bool) : (s.writeWithFlag x b f).halt = s.halt := rfl
@[simp] theorem State.writeWithFlag_fcause (x : Reg) (b : Byte) (f : Bool) : (s.writeWithFlag x b f).fcause = s.fcause := rfl
@[simp] theorem State.writeWithFlag_fopcode (x : Reg) (b : Byte) (f : Bool) : (s.writeWithFlag x b f).fopcode = s.fopcode := rfl
@[simp] theorem State.writeWithFlag_fpc (x : Reg) (b : Byte) (f : Bool) : (s.writeWithFlag x b f).fpc = s.fpc := rfl
@[simp] theorem State.writeWithFlag_rndIndex (x : Reg) (b : Byte) (f : Bool) : (s.writeWithFlag x b f).rndIndex = s.rndIndex := rfl

/-! ### the fields an update does write -/

@[simp] theorem State.memWrite_mem (a : Nat) (b : Byte) : (s.memWrite a b).mem = s.mem.write (portAddr a) b := rfl
theorem toNat_low12 (a : Nat) : (BitVec.ofNat 16 (a % 4096)).toNat = a % 4096 := by
  rw [BitVec.toNat_ofNat]; omega

@[simp] theorem State.writeI_i (a : Nat) : (s.writeI a).i.toNat = a % 4096 := toNat_low12 a
@[simp] theorem State.writePc_pc (a : Nat) : (s.writePc a).pc.toNat = a % 4096 := toNat_low12 a
@[simp] theorem State.advance_pc (k : Nat) : (s.advance k).pc.toNat = (s.pc.toNat + k) % 4096 := toNat_low12 _
@[simp] theorem State.skipIf_pc (c : Bool) :
    (s.skipIf c).pc.toNat = (s.pc.toNat + if c then 4 else 2) % 4096 := toNat_low12 _
@[simp] theorem State.tick_dt : s.tick.dt = countDown s.dt := rfl
@[simp] theorem State.tick_st : s.tick.st = countDown s.st := rfl

/-! ### fault entry and the cleared record -/

@[simp] theorem State.raise_mem (c : FaultCause) (op : Word) : (s.raise c op).mem = s.mem := rfl
@[simp] theorem State.raise_v (c : FaultCause) (op : Word) : (s.raise c op).v = s.v := rfl
@[simp] theorem State.raise_i (c : FaultCause) (op : Word) : (s.raise c op).i = s.i := rfl
@[simp] theorem State.raise_pc (c : FaultCause) (op : Word) : (s.raise c op).pc = s.pc := rfl
@[simp] theorem State.raise_stack (c : FaultCause) (op : Word) : (s.raise c op).stack = s.stack := rfl
@[simp] theorem State.raise_sp (c : FaultCause) (op : Word) : (s.raise c op).sp = s.sp := rfl
@[simp] theorem State.raise_dt (c : FaultCause) (op : Word) : (s.raise c op).dt = s.dt := rfl
@[simp] theorem State.raise_st (c : FaultCause) (op : Word) : (s.raise c op).st = s.st := rfl
@[simp] theorem State.raise_key (c : FaultCause) (op : Word) : (s.raise c op).key = s.key := rfl
@[simp] theorem State.raise_fb (c : FaultCause) (op : Word) : (s.raise c op).fb = s.fb := rfl
@[simp] theorem State.raise_df (c : FaultCause) (op : Word) : (s.raise c op).df = s.df := rfl
@[simp] theorem State.raise_rndIndex (c : FaultCause) (op : Word) : (s.raise c op).rndIndex = s.rndIndex := rfl
@[simp] theorem State.raise_halt (c : FaultCause) (op : Word) : (s.raise c op).halt = true := rfl
@[simp] theorem State.raise_fcause (c : FaultCause) (op : Word) : (s.raise c op).fcause = c := rfl
@[simp] theorem State.raise_fopcode (c : FaultCause) (op : Word) : (s.raise c op).fopcode = op := rfl
@[simp] theorem State.raise_fpc (c : FaultCause) (op : Word) : (s.raise c op).fpc = s.pc := rfl

/-! ### a list of bytes written, and registers loaded: only mem, only v -/

@[simp] theorem State.memWriteList_v (a : Nat) (bs : List Byte) : (s.memWriteList a bs).v = s.v := by
  induction bs generalizing s a with
  | nil => rfl
  | cons b bs ih => simp [State.memWriteList, ih]
@[simp] theorem State.memWriteList_i (a : Nat) (bs : List Byte) : (s.memWriteList a bs).i = s.i := by
  induction bs generalizing s a with
  | nil => rfl
  | cons b bs ih => simp [State.memWriteList, ih]
@[simp] theorem State.memWriteList_pc (a : Nat) (bs : List Byte) : (s.memWriteList a bs).pc = s.pc := by
  induction bs generalizing s a with
  | nil => rfl
  | cons b bs ih => simp [State.memWriteList, ih]
@[simp] theorem State.memWriteList_stack (a : Nat) (bs : List Byte) : (s.memWriteList a bs).stack = s.stack := by
  induction bs generalizing s a with
  | nil => rfl
  | cons b bs ih => simp [State.memWriteList, ih]
@[simp] theorem State.memWriteList_sp (a : Nat) (bs : List Byte) : (s.memWriteList a bs).sp = s.sp := by
  induction bs generalizing s a with
  | nil => rfl
  | cons b bs ih => simp [State.memWriteList, ih]
@[simp] theorem State.memWriteList_dt (a : Nat) (bs : List Byte) : (s.memWriteList a bs).dt = s.dt := by
  induction bs generalizing s a with
  | nil => rfl
  | cons b bs ih => simp [State.memWriteList, ih]
@[simp] theorem State.memWriteList_st (a : Nat) (bs : List Byte) : (s.memWriteList a bs).st = s.st := by
  induction bs generalizing s a with
  | nil => rfl
  | cons b bs ih => simp [State.memWriteList, ih]
@[simp] theorem State.memWriteList_key (a : Nat) (bs : List Byte) : (s.memWriteList a bs).key = s.key := by
  induction bs generalizing s a with
  | nil => rfl
  | cons b bs ih => simp [State.memWriteList, ih]
@[simp] theorem State.memWriteList_fb (a : Nat) (bs : List Byte) : (s.memWriteList a bs).fb = s.fb := by
  induction bs generalizing s a with
  | nil => rfl
  | cons b bs ih => simp [State.memWriteList, ih]
@[simp] theorem State.memWriteList_df (a : Nat) (bs : List Byte) : (s.memWriteList a bs).df = s.df := by
  induction bs generalizing s a with
  | nil => rfl
  | cons b bs ih => simp [State.memWriteList, ih]
@[simp] theorem State.memWriteList_halt (a : Nat) (bs : List Byte) : (s.memWriteList a bs).halt = s.halt := by
  induction bs generalizing s a with
  | nil => rfl
  | cons b bs ih => simp [State.memWriteList, ih]
@[simp] theorem State.memWriteList_fcause (a : Nat) (bs : List Byte) : (s.memWriteList a bs).fcause = s.fcause := by
  induction bs generalizing s a with
  | nil => rfl
  | cons b bs ih => simp [State.memWriteList, ih]
@[simp] theorem State.memWriteList_fopcode (a : Nat) (bs : List Byte) : (s.memWriteList a bs).fopcode = s.fopcode := by
  induction bs generalizing s a with
  | nil => rfl
  | cons b bs ih => simp [State.memWriteList, ih]
@[simp] theorem State.memWriteList_fpc (a : Nat) (bs : List Byte) : (s.memWriteList a bs).fpc = s.fpc := by
  induction bs generalizing s a with
  | nil => rfl
  | cons b bs ih => simp [State.memWriteList, ih]
@[simp] theorem State.memWriteList_rndIndex (a : Nat) (bs : List Byte) : (s.memWriteList a bs).rndIndex = s.rndIndex := by
  induction bs generalizing s a with
  | nil => rfl
  | cons b bs ih => simp [State.memWriteList, ih]
@[simp] theorem State.loadRegs_mem (k : Nat) : (s.loadRegs k).mem = s.mem := by
  induction k with
  | zero => rfl
  | succ k ih => simp [State.loadRegs, ih]
@[simp] theorem State.loadRegs_i (k : Nat) : (s.loadRegs k).i = s.i := by
  induction k with
  | zero => rfl
  | succ k ih => simp [State.loadRegs, ih]
@[simp] theorem State.loadRegs_pc (k : Nat) : (s.loadRegs k).pc = s.pc := by
  induction k with
  | zero => rfl
  | succ k ih => simp [State.loadRegs, ih]
@[simp] theorem State.loadRegs_stack (k : Nat) : (s.loadRegs k).stack = s.stack := by
  induction k with
  | zero => rfl
  | succ k ih => simp [State.loadRegs, ih]
@[simp] theorem State.loadRegs_sp (k : Nat) : (s.loadRegs k).sp = s.sp := by
  induction k with
  | zero => rfl
  | succ k ih => simp [State.loadRegs, ih]
@[simp] theorem State.loadRegs_dt (k : Nat) : (s.loadRegs k).dt = s.dt := by
  induction k with
  | zero => rfl
  | succ k ih => simp [State.loadRegs, ih]
@[simp] theorem State.loadRegs_st (k : Nat) : (s.loadRegs k).st = s.st := by
  induction k with
  | zero => rfl
  | succ k ih => simp [State.loadRegs, ih]
@[simp] theorem State.loadRegs_key (k : Nat) : (s.loadRegs k).key = s.key := by
  induction k with
  | zero => rfl
  | succ k ih => simp [State.loadRegs, ih]
@[simp] theorem State.loadRegs_fb (k : Nat) : (s.loadRegs k).fb = s.fb := by
  induction k with
  | zero => rfl
  | succ k ih => simp [State.loadRegs, ih]
@[simp] theorem State.loadRegs_df (k : Nat) : (s.loadRegs k).df = s.df := by
  induction k with
  | zero => rfl
  | succ k ih => simp [State.loadRegs, ih]
@[simp] theorem State.loadRegs_halt (k : Nat) : (s.loadRegs k).halt = s.halt := by
  induction k with
  | zero => rfl
  | succ k ih => simp [State.loadRegs, ih]
@[simp] theorem State.loadRegs_fcause (k : Nat) : (s.loadRegs k).fcause = s.fcause := by
  induction k with
  | zero => rfl
  | succ k ih => simp [State.loadRegs, ih]
@[simp] theorem State.loadRegs_fopcode (k : Nat) : (s.loadRegs k).fopcode = s.fopcode := by
  induction k with
  | zero => rfl
  | succ k ih => simp [State.loadRegs, ih]
@[simp] theorem State.loadRegs_fpc (k : Nat) : (s.loadRegs k).fpc = s.fpc := by
  induction k with
  | zero => rfl
  | succ k ih => simp [State.loadRegs, ih]
@[simp] theorem State.loadRegs_rndIndex (k : Nat) : (s.loadRegs k).rndIndex = s.rndIndex := by
  induction k with
  | zero => rfl
  | succ k ih => simp [State.loadRegs, ih]

/-! ### one sample of the random input: only rndIndex -/

@[simp] theorem State.sampleRnd_mem : s.sampleRnd.2.mem = s.mem := rfl
@[simp] theorem State.sampleRnd_v : s.sampleRnd.2.v = s.v := rfl
@[simp] theorem State.sampleRnd_i : s.sampleRnd.2.i = s.i := rfl
@[simp] theorem State.sampleRnd_pc : s.sampleRnd.2.pc = s.pc := rfl
@[simp] theorem State.sampleRnd_stack : s.sampleRnd.2.stack = s.stack := rfl
@[simp] theorem State.sampleRnd_sp : s.sampleRnd.2.sp = s.sp := rfl
@[simp] theorem State.sampleRnd_dt : s.sampleRnd.2.dt = s.dt := rfl
@[simp] theorem State.sampleRnd_st : s.sampleRnd.2.st = s.st := rfl
@[simp] theorem State.sampleRnd_key : s.sampleRnd.2.key = s.key := rfl
@[simp] theorem State.sampleRnd_fb : s.sampleRnd.2.fb = s.fb := rfl
@[simp] theorem State.sampleRnd_df : s.sampleRnd.2.df = s.df := rfl
@[simp] theorem State.sampleRnd_halt : s.sampleRnd.2.halt = s.halt := rfl
@[simp] theorem State.sampleRnd_fcause : s.sampleRnd.2.fcause = s.fcause := rfl
@[simp] theorem State.sampleRnd_fopcode : s.sampleRnd.2.fopcode = s.fopcode := rfl
@[simp] theorem State.sampleRnd_fpc : s.sampleRnd.2.fpc = s.fpc := rfl
@[simp] theorem State.sampleRnd_rndIndex : s.sampleRnd.2.rndIndex = s.rndIndex + 1 := rfl

/-! ### reads through an update of another part -/

@[simp] theorem State.readV_writeI (a : Nat) (q : Reg) : (s.writeI a).readV q = s.readV q := rfl
@[simp] theorem State.readV_writePc (a : Nat) (q : Reg) : (s.writePc a).readV q = s.readV q := rfl
@[simp] theorem State.readV_advance (k : Nat) (q : Reg) : (s.advance k).readV q = s.readV q := rfl
@[simp] theorem State.readV_skipIf (c : Bool) (q : Reg) : (s.skipIf c).readV q = s.readV q := rfl
@[simp] theorem State.readV_tick (q : Reg) : (s.tick).readV q = s.readV q := rfl
@[simp] theorem State.readV_memWrite (a : Nat) (b : Byte) (q : Reg) : (s.memWrite a b).readV q = s.readV q := rfl
@[simp] theorem State.readV_raise (c : FaultCause) (op : Word) (q : Reg) : (s.raise c op).readV q = s.readV q := rfl
@[simp] theorem State.readV_sampleRnd (q : Reg) : s.sampleRnd.2.readV q = s.readV q := rfl

@[simp] theorem State.memRead_writeV (r : Reg) (b : Byte) (c : Nat) : (s.writeV r b).memRead c = s.memRead c := rfl
@[simp] theorem State.memRead_writeI (a : Nat) (c : Nat) : (s.writeI a).memRead c = s.memRead c := rfl
@[simp] theorem State.memRead_writePc (a : Nat) (c : Nat) : (s.writePc a).memRead c = s.memRead c := rfl
@[simp] theorem State.memRead_advance (k : Nat) (c : Nat) : (s.advance k).memRead c = s.memRead c := rfl
@[simp] theorem State.memRead_skipIf (d : Bool) (c : Nat) : (s.skipIf d).memRead c = s.memRead c := rfl
@[simp] theorem State.memRead_tick (c : Nat) : (s.tick).memRead c = s.memRead c := rfl
@[simp] theorem State.memRead_writeWithFlag (x : Reg) (b : Byte) (f : Bool) (c : Nat) : (s.writeWithFlag x b f).memRead c = s.memRead c := rfl
@[simp] theorem State.memRead_raise (e : FaultCause) (op : Word) (c : Nat) : (s.raise e op).memRead c = s.memRead c := rfl
@[simp] theorem State.memRead_sampleRnd (c : Nat) : s.sampleRnd.2.memRead c = s.memRead c := rfl

theorem State.memRead_congr {s t : State} (h : s.mem = t.mem) (a : Nat) : s.memRead a = t.memRead a := by
  simp [State.memRead, h]

theorem State.readV_congr {s t : State} (h : s.v = t.v) (r : Reg) : s.readV r = t.readV r := by
  simp [State.readV, h]

@[simp] theorem State.readV_memWriteList (a : Nat) (bs : List Byte) (q : Reg) :
    (s.memWriteList a bs).readV q = s.readV q := State.readV_congr (by simp) q

@[simp] theorem State.memRead_loadRegs (k a : Nat) : (s.loadRegs k).memRead a = s.memRead a :=
  State.memRead_congr (by simp) a

end Sys2Proof.Machine
end

