-- ==== Sys2Proof/Laws/Memory.lean ====
section
/-! SUPPORT. Memory: a read after a write, and the canonical form kept by every memory operation. -/

namespace Sys2Proof.Machine

theorem Memory.read_insert (m : Memory) (a c : Nat) (b : Byte) (h : ∀ e ∈ m, e.1 ≠ a) :
    (Memory.insert a b m).read c = if c = a then b else m.read c := by
  induction m with
  | nil => simp [Memory.insert, Memory.read, eq_comm]
  | cons e m ih =>
    have ih := ih (fun x hx => h x (List.mem_cons_of_mem _ hx))
    have he : e.1 ≠ a := h e (List.mem_cons_self ..)
    by_cases hlt : a < e.1
    · simp [Memory.insert, hlt, Memory.read, eq_comm]
    · rw [Memory.insert, if_neg hlt, Memory.read, ih]
      by_cases hc : e.1 = c
      · subst hc; simp [Memory.read, he]
      · simp [Memory.read, hc]

theorem Memory.read_filter (m : Memory) (a c : Nat) (h : c ≠ a) :
    Memory.read (m.filter (fun e => e.1 != a)) c = m.read c := by
  induction m with
  | nil => rfl
  | cons e m ih =>
    by_cases he : e.1 = a
    · rw [List.filter_cons_of_neg (by simp [he]), ih, Memory.read, if_neg (by rw [he]; exact fun x => h x.symm)]
    · rw [List.filter_cons_of_pos (by simp [he]), Memory.read, Memory.read, ih]

theorem Memory.read_absent (m : Memory) (a : Nat) (h : ∀ e ∈ m, e.1 ≠ a) : m.read a = Config.resetByte a := by
  induction m with
  | nil => rfl
  | cons e m ih =>
    rw [Memory.read, if_neg (h e (List.mem_cons_self ..)), ih (fun x hx => h x (List.mem_cons_of_mem _ hx))]

theorem Memory.filter_absent (m : Memory) (a : Nat) : ∀ e ∈ m.filter (fun e => e.1 != a), e.1 ≠ a := by
  intro e he; simpa using (List.mem_filter.1 he).2

/-- A read after a write, on any memory: the byte written at its address, and every other byte as before. -/
theorem Memory.read_write (m : Memory) (a c : Nat) (b : Byte) :
    (m.write a b).read c = if c = a then b else m.read c := by
  unfold Memory.write
  by_cases hb : b = Config.resetByte a
  · simp only [hb, if_true]
    by_cases hc : c = a
    · rw [if_pos hc, hc, Memory.read_absent _ _ (Memory.filter_absent m a)]
    · rw [if_neg hc, Memory.read_filter m a c hc]
  · simp only [if_neg hb]
    rw [Memory.read_insert _ _ _ _ (Memory.filter_absent m a)]
    by_cases hc : c = a
    · simp [hc]
    · rw [if_neg hc, if_neg hc, Memory.read_filter m a c hc]

theorem Memory.mem_insert (m : Memory) (a : Nat) (b : Byte) (e : Host.Cell) :
    e ∈ Memory.insert a b m ↔ e = (a, b) ∨ e ∈ m := by
  induction m with
  | nil => simp [Memory.insert]
  | cons d m ih =>
    by_cases h : a < d.1
    · simp [Memory.insert, h]
    · simp [Memory.insert, h, ih, or_left_comm]

theorem Memory.insert_pairwise (m : Memory) (a : Nat) (b : Byte) (hm : m.Pairwise (fun c d => c.1 < d.1))
    (h : ∀ e ∈ m, e.1 ≠ a) : (Memory.insert a b m).Pairwise (fun c d => c.1 < d.1) := by
  induction m with
  | nil => simp [Memory.insert]
  | cons d m ih =>
    rw [List.pairwise_cons] at hm
    by_cases hlt : a < d.1
    · rw [Memory.insert, if_pos hlt, List.pairwise_cons, List.pairwise_cons]
      refine ⟨?_, hm⟩
      intro e he
      rcases List.mem_cons.1 he with rfl | he
      · exact hlt
      · exact Nat.lt_trans hlt (hm.1 e he)
    · have hd : d.1 ≠ a := h d (List.mem_cons_self ..)
      rw [Memory.insert, if_neg hlt, List.pairwise_cons]
      refine ⟨?_, ih hm.2 (fun x hx => h x (List.mem_cons_of_mem _ hx))⟩
      intro e he
      rcases (Memory.mem_insert m a b e).1 he with rfl | he
      · show d.1 < a; omega
      · exact hm.1 e he

/-- A write inside the array keeps the canonical form. -/
theorem Memory.wf_write (m : Memory) (a : Nat) (b : Byte) (hm : m.wf) (ha : a < 4096) : (m.write a b).wf := by
  have hf : (m.filter (fun e => e.1 != a)).Pairwise (fun c d => c.1 < d.1) := hm.1.filter _
  have hin : ∀ e ∈ m.filter (fun e => e.1 != a), e.1 < Config.memSize ∧ e.2 ≠ Config.resetByte e.1 :=
    fun e he => hm.2 e (List.mem_filter.1 he).1
  unfold Memory.write
  by_cases hb : b = Config.resetByte a
  · simp only [hb, if_true]; exact ⟨hf, hin⟩
  · simp only [if_neg hb]
    refine ⟨Memory.insert_pairwise _ _ _ hf (Memory.filter_absent m a), ?_⟩
    intro e he
    rcases (Memory.mem_insert _ a b e).1 he with rfl | he
    · exact ⟨ha, hb⟩
    · exact hin e he

theorem portAddr_lt (a : Nat) : portAddr a < 4096 := Nat.mod_lt _ (by decide)

/-- The memory port: a read after a write (R10, R62). -/
theorem State.memRead_memWrite (s : State) (a c : Nat) (b : Byte) :
    (s.memWrite a b).memRead c = if c % 4096 = a % 4096 then b else s.memRead c := by
  simp [State.memRead, State.memWrite, Memory.read_write, portAddr]

theorem State.memRead_mod (s : State) (a : Nat) : s.memRead (a % 4096) = s.memRead a := by
  simp [State.memRead, portAddr]

theorem State.wf_memWrite (s : State) (a : Nat) (b : Byte) (h : s.mem.wf) : (s.memWrite a b).mem.wf :=
  Memory.wf_write _ _ _ h (portAddr_lt a)

theorem State.wf_memWriteList (s : State) (a : Nat) (bs : List Byte) (h : s.mem.wf) :
    (s.memWriteList a bs).mem.wf := by
  induction bs generalizing s a with
  | nil => exact h
  | cons b bs ih => exact ih _ _ (s.wf_memWrite a b h)

theorem State.reset_wf : State.reset.mem.wf := by simp [State.reset, Memory.wf]

/-- A byte outside the bytes a list was written to is as before. -/
theorem State.memRead_memWriteList_other (s : State) (a c : Nat) (bs : List Byte)
    (h : ∀ k < bs.length, c % 4096 ≠ (a + k) % 4096) : (s.memWriteList a bs).memRead c = s.memRead c := by
  induction bs generalizing s a with
  | nil => rfl
  | cons b bs ih =>
    rw [State.memWriteList, ih, State.memRead_memWrite, if_neg]
    · simpa using h 0 (by simp)
    · intro k hk; have := h (k + 1) (by simpa using hk); rwa [Nat.add_assoc, Nat.add_comm 1 k]

/-- The `k`-th byte of a list no longer than the array reads back where it was written. -/
theorem State.memRead_memWriteList_at (s : State) (a k : Nat) (bs : List Byte) (hk : k < bs.length)
    (hl : bs.length ≤ 4096) : (s.memWriteList a bs).memRead (a + k) = bs[k] := by
  induction bs generalizing s a k with
  | nil => simp at hk
  | cons b bs ih =>
    simp only [List.length_cons] at hk hl
    cases k with
    | zero =>
      rw [State.memWriteList, State.memRead_memWriteList_other, State.memRead_memWrite]
      · simp
      · intro j hj; omega
    | succ k =>
      have := ih (s.memWrite a b) (a + 1) k (by omega) (by omega)
      simpa [State.memWriteList, Nat.add_comm, Nat.add_left_comm] using this

end Sys2Proof.Machine
end

