-- ==== Sys2Proof/Laws/Ops.lean ====
section
/-! SUPPORT. One lemma per shared operation: everything it can do. -/

namespace Sys2Proof.Machine

@[simp] theorem State.readV_writeV (s : State) (r q : Reg) (b : Byte) :
    (s.writeV r b).readV q = if q = r then b else s.readV q := by
  simp only [State.readV, State.writeV, Vector.getElem_set]
  by_cases h : q = r
  · simp [h]
  · have : r.toNat ≠ q.toNat := fun e => h (BitVec.eq_of_toNat_eq e.symm)
    simp [h, this]

theorem State.readV_writeWithFlag (s : State) (x r : Reg) (b : Byte) (f : Bool) :
    (s.writeWithFlag x b f).readV r = if r = Reg.vf then flagByte f else if r = x then b else s.readV r := by
  simp [State.writeWithFlag]

theorem flagByte_toNat (f : Bool) : (flagByte f).toNat = if f then 1 else 0 := by cases f <;> rfl

theorem flagByte_zero_or_one (f : Bool) : flagByte f = 0x00#8 ∨ flagByte f = 0x01#8 := by cases f <;> simp [flagByte]

@[simp] theorem countDown_toNat (b : Byte) : (countDown b).toNat = b.toNat - 1 := by
  revert b; decide

/-- A push answers none exactly when the stack is full; else the entry, SP and nothing else are written. -/
theorem State.push_cases (s : State) (w : Word) :
    (s.sp.val = 16 ∧ s.push w = none) ∨
    ∃ h : s.sp.val < 16, ∃ t, s.push w = some t ∧ t.sp.val = s.sp.val + 1 ∧
      t = { s with stack := s.stack.set s.sp.val w h, sp := t.sp } := by
  by_cases h : s.sp.val < 16
  · exact .inr ⟨h, { s with stack := s.stack.set s.sp.val w h, sp := ⟨s.sp.val + 1, by omega⟩ },
      by simp [State.push, h], rfl, rfl⟩
  · exact .inl ⟨by omega, by simp [State.push, h]⟩

/-- A pop answers none exactly when the stack is empty; else the top entry, SP and nothing else are written. -/
theorem State.pop_cases (s : State) :
    (s.sp.val = 0 ∧ s.pop = none) ∨
    ∃ k, ∃ h : k < 16, s.sp.val = k + 1 ∧ ∃ t, s.pop = some (s.stack[k], t) ∧ t.sp.val = k ∧
      t = { s with sp := t.sp } := by
  by_cases h : 0 < s.sp.val
  · exact .inr ⟨s.sp.val - 1, by omega, by omega, { s with sp := ⟨s.sp.val - 1, by omega⟩ },
      by simp [State.pop, h], rfl, rfl⟩
  · exact .inl ⟨by omega, by simp [State.pop, h]⟩

/-- Registers loaded one after another: below the count from memory, the rest as before. -/
theorem State.readV_loadRegs (s : State) (k : Nat) (hk : k ≤ 16) (r : Reg) :
    (s.loadRegs k).readV r = if r.toNat < k then s.memRead (s.i.toNat + r.toNat) else s.readV r := by
  induction k with
  | zero => rfl
  | succ k ih =>
    rw [State.loadRegs, State.readV_writeV, ih (by omega)]
    have hr := r.isLt
    have e : r = BitVec.ofNat 4 k ↔ r.toNat = k := by
      rw [← BitVec.toNat_inj, BitVec.toNat_ofNat, Nat.mod_eq_of_lt (by omega)]
    by_cases h : r.toNat = k
    · rw [if_pos (e.2 h), if_pos (by omega), State.indexAddr, h]
    · rw [if_neg (fun x => h (e.1 x))]
      by_cases h' : r.toNat < k
      · rw [if_pos h', if_pos (by omega)]
      · rw [if_neg h', if_neg (by omega)]

theorem State.regsUpTo_length (s : State) (x : Reg) : (s.regsUpTo x).length = x.toNat + 1 := by
  simp [State.regsUpTo]

theorem State.regsUpTo_get (s : State) (x r : Reg) (h : r.toNat < (s.regsUpTo x).length) :
    (s.regsUpTo x)[r.toNat] = s.readV r := by
  simp [State.regsUpTo]

/-- The least pressed key: none exactly when no key is pressed. -/
theorem State.leastKey_none (s : State) : s.leastKey = none ↔ ∀ k < 16, s.key.getLsbD k = false := by
  simp [State.leastKey]

theorem State.leastKey_some (s : State) (k : Nat) :
    s.leastKey = some k ↔ k < 16 ∧ s.key.getLsbD k = true ∧ ∀ j < k, s.key.getLsbD j = false := by
  simp only [State.leastKey, Config.numKeys, List.find?_range_eq_some, Bool.not_eq_true', List.mem_range]
  tauto

end Sys2Proof.Machine
end

