-- ==== Sys2Proof/Laws/Display.lean ====
section
/-! SUPPORT. The framebuffer's cells, and what a sequence of pixel flips at distinct cells does. -/

namespace Sys2Proof.Machine

theorem cellOf_lt (cx cy : Nat) : cellOf cx cy < 2048 := by
  simp only [cellOf, Config.displayHeight, Config.displayWidth]; omega

/-- A cell read after a cell is overwritten, for indices inside the buffer (R76, R232). -/
theorem Framebuffer.getPixel_setPixel (fb : Framebuffer) (p q : Nat) (b : Bool) (hp : p < 2048) (hq : q < 2048) :
    (Framebuffer.setPixel fb p b).getPixel q = if q = p then b else fb.getPixel q := by
  simp only [Framebuffer.getPixel, Framebuffer.setPixel, Vector.getElem_set]
  by_cases hrow : p / 64 % 32 = q / 64 % 32
  · simp only [hrow, if_true]
    have hpm : p % 64 < 64 := Nat.mod_lt _ (by decide)
    have hqm : q % 64 < 64 := Nat.mod_lt _ (by decide)
    have e : q = p ↔ q % 64 = p % 64 := by omega
    cases b <;> by_cases h : q % 64 = p % 64 <;> simp [e, h, hpm, hqm]
  · have : q ≠ p := fun e => hrow (by rw [e])
    simp [hrow, this]

theorem Framebuffer.blank_getPixel (p : Nat) : Framebuffer.blank.getPixel p = false := by
  simp [Framebuffer.getPixel, Framebuffer.blank]

/-- Two framebuffers with the same 2048 cells are the same. -/
theorem Framebuffer.ext_getPixel (a b : Framebuffer) (h : ∀ p < 2048, a.getPixel p = b.getPixel p) : a = b := by
  apply Vector.ext
  intro cy hcy
  apply BitVec.eq_of_getLsbD_eq
  intro cx hcx
  have := h (cy * 64 + cx) (by omega)
  have e1 : (cy * 64 + cx) / 64 % 32 = cy := by omega
  have e2 : (cy * 64 + cx) % 64 = cx := by omega
  simpa [Framebuffer.getPixel, e1, e2] using this

/-- The cells the set bits of one sprite row map to, column by column (R231). -/
def rowCells (x0 y : Nat) (b : Byte) (c : Nat) : List Nat :=
  ((List.range c).filter (spriteBit b)).map (fun k => cellOf (x0 + k) y)

/-- The cells the set bits of a sprite map to, row by row (R231). -/
def spriteCells (x0 y0 : Nat) (rows : Nat → Byte) (n : Nat) : List Nat :=
  (List.range n).flatMap (fun r => rowCells x0 (y0 + r) (rows r) 8)

theorem Canvas.drawRow_eq_flips (k : Canvas) (x0 y : Nat) (b : Byte) (c : Nat) :
    k.drawRow x0 y b c = (rowCells x0 y b c).foldl Canvas.flip k := by
  induction c with
  | zero => rfl
  | succ c ih =>
    rw [Canvas.drawRow, ih]
    by_cases h : spriteBit b c = true <;> simp [rowCells, List.range_succ, List.filter_append, h]

/-- The sprite loops of R231 flip the sprite's cells one after another. -/
theorem Canvas.drawRows_eq_flips (k : Canvas) (x0 y0 : Nat) (rows : Nat → Byte) (n : Nat) :
    k.drawRows x0 y0 rows n = (spriteCells x0 y0 rows n).foldl Canvas.flip k := by
  induction n with
  | zero => rfl
  | succ n ih =>
    rw [Canvas.drawRows, ih, Canvas.drawRow_eq_flips]
    simp [spriteCells, List.range_succ, List.flatMap_append]

/-- A cell is among a sprite's cells when a set bit of it maps there. -/
theorem mem_spriteCells (x0 y0 n p : Nat) (rows : Nat → Byte) :
    p ∈ spriteCells x0 y0 rows n ↔
      ∃ r c, r < n ∧ c < 8 ∧ spriteBit (rows r) c = true ∧ p = cellOf (x0 + c) (y0 + r) := by
  simp only [spriteCells, rowCells, List.mem_flatMap, List.mem_range, List.mem_map, List.mem_filter]
  constructor
  · rintro ⟨r, hr, c, ⟨hc, hb⟩, rfl⟩; exact ⟨r, c, hr, hc, hb, rfl⟩
  · rintro ⟨r, c, hr, hc, hb, rfl⟩; exact ⟨r, hr, c, ⟨hc, hb⟩, rfl⟩

/-- R233: two sprite bits of at most 15 rows never map to the same cell. -/
theorem spriteCells_nodup (x0 y0 n : Nat) (rows : Nat → Byte) (hn : n ≤ 15) :
    (spriteCells x0 y0 rows n).Nodup := by
  have inj : ∀ {c d r q : Nat}, c < 8 → d < 8 → r < 15 → q < 15 →
      cellOf (x0 + c) (y0 + r) = cellOf (x0 + d) (y0 + q) → c = d ∧ r = q := by
    intro c d r q hc hd hr hq h
    simp only [cellOf, Config.displayHeight, Config.displayWidth] at h
    omega
  rw [spriteCells, List.nodup_flatMap]
  constructor
  · intro r hr
    rw [List.mem_range] at hr
    refine List.Nodup.map_on ?_ (List.nodup_range.filter _)
    intro c hc d hd h
    exact (inj (List.mem_range.1 (List.mem_filter.1 hc).1) (List.mem_range.1 (List.mem_filter.1 hd).1)
      (by omega) (by omega) h).1
  · refine List.Pairwise.imp_of_mem ?_ List.nodup_range
    intro r q hr hq hne p hp hq'
    simp only [rowCells, List.mem_map, List.mem_filter, List.mem_range] at hp hq' hr hq
    obtain ⟨c, ⟨hc, -⟩, rfl⟩ := hp
    obtain ⟨d, ⟨hd, -⟩, h⟩ := hq'
    exact hne (inj hd hc (by omega) (by omega) h).2.symm

/-- Flips at distinct cells invert exactly those cells, and record whether one of them was on. -/
theorem Canvas.flips_spec (ps : List Nat) (k : Canvas) (hd : ps.Nodup) (hb : ∀ p ∈ ps, p < 2048) :
    (∀ p < 2048, (ps.foldl Canvas.flip k).fb.getPixel p = (k.fb.getPixel p ^^ decide (p ∈ ps))) ∧
    (ps.foldl Canvas.flip k).hit = (k.hit || ps.any k.fb.getPixel) := by
  induction ps generalizing k with
  | nil => simp
  | cons a ps ih =>
    have ha : a < 2048 := hb a (List.mem_cons_self ..)
    have hnot : a ∉ ps := (List.nodup_cons.1 hd).1
    obtain ⟨h1, h2⟩ := ih (k.flip a) (List.nodup_cons.1 hd).2 (fun p hp => hb p (List.mem_cons_of_mem _ hp))
    have hpix : ∀ p < 2048, (k.flip a).fb.getPixel p = if p = a then !k.fb.getPixel a else k.fb.getPixel p := by
      intro p hp; simp [Canvas.flip, Framebuffer.getPixel_setPixel _ _ _ _ ha hp]
    constructor
    · intro p hp
      rw [List.foldl_cons, h1 p hp, hpix p hp]
      by_cases e : p = a
      · subst e; simp [hnot]
      · simp [e]
    · rw [List.foldl_cons, h2]
      have : ps.any (k.flip a).fb.getPixel = ps.any k.fb.getPixel := by
        apply Bool.eq_iff_iff.2
        simp only [List.any_eq_true]
        refine exists_congr fun p => and_congr_right fun hp => ?_
        rw [hpix p (hb p (List.mem_cons_of_mem _ hp)), if_neg (fun e : p = a => hnot (e ▸ hp))]
      rw [this, List.any_cons, Canvas.flip, Bool.or_assoc]

end Sys2Proof.Machine
end

