-- ==== Sys2Proof/Laws/PerInstr.lean ====
section
/-! SUPPORT. Statements made instruction by instruction: each encoding lies in its own row of the opcode map. -/

namespace Sys2Proof

/-- The row of the opcode map an instruction stands in (R95). -/
def rowOf (m : Mnemonic) : Option OpcodeRow := opcodeMap.find? (fun r => r.mnemonic == m)

/-- The pattern digits of an instruction (R95, column "pattern") meet the mask and match of its own row. -/
def Laws.EncodingInRow.Statement (i : Instr) : Prop :=
  ∃ r, rowOf i.mnemonic = some r ∧ encode i &&& r.mask = r.bits

namespace Laws.EncodingInRow

theorem cls : Statement .cls := ⟨_, rfl, rfl⟩
theorem ret : Statement .ret := ⟨_, rfl, rfl⟩
theorem jp (nnn : Addr) : Statement (.jp nnn) := ⟨_, rfl, mask_nnn _ nnn⟩
theorem call (nnn : Addr) : Statement (.call nnn) := ⟨_, rfl, mask_nnn _ nnn⟩
theorem seImm (x : Reg) (nn : Byte) : Statement (.seImm x nn) := ⟨_, rfl, mask_xnn _ x nn⟩
theorem sneImm (x : Reg) (nn : Byte) : Statement (.sneImm x nn) := ⟨_, rfl, mask_xnn _ x nn⟩
theorem seReg (x y : Reg) : Statement (.seReg x y) := ⟨_, rfl, mask_xy _ x y _⟩
theorem ldImm (x : Reg) (nn : Byte) : Statement (.ldImm x nn) := ⟨_, rfl, mask_xnn _ x nn⟩
theorem addImm (x : Reg) (nn : Byte) : Statement (.addImm x nn) := ⟨_, rfl, mask_xnn _ x nn⟩
theorem ldReg (x y : Reg) : Statement (.ldReg x y) := ⟨_, rfl, mask_xy _ x y _⟩
theorem orReg (x y : Reg) : Statement (.orReg x y) := ⟨_, rfl, mask_xy _ x y _⟩
theorem andReg (x y : Reg) : Statement (.andReg x y) := ⟨_, rfl, mask_xy _ x y _⟩
theorem xorReg (x y : Reg) : Statement (.xorReg x y) := ⟨_, rfl, mask_xy _ x y _⟩
theorem addReg (x y : Reg) : Statement (.addReg x y) := ⟨_, rfl, mask_xy _ x y _⟩
theorem sub (x y : Reg) : Statement (.sub x y) := ⟨_, rfl, mask_xy _ x y _⟩
theorem shr (x y : Reg) : Statement (.shr x y) := ⟨_, rfl, mask_xy _ x y _⟩
theorem subn (x y : Reg) : Statement (.subn x y) := ⟨_, rfl, mask_xy _ x y _⟩
theorem shl (x y : Reg) : Statement (.shl x y) := ⟨_, rfl, mask_xy _ x y _⟩
theorem sneReg (x y : Reg) : Statement (.sneReg x y) := ⟨_, rfl, mask_xy _ x y _⟩
theorem ldI (nnn : Addr) : Statement (.ldI nnn) := ⟨_, rfl, mask_nnn _ nnn⟩
theorem jpV0 (nnn : Addr) : Statement (.jpV0 nnn) := ⟨_, rfl, mask_nnn _ nnn⟩
theorem rnd (x : Reg) (nn : Byte) : Statement (.rnd x nn) := ⟨_, rfl, mask_xnn _ x nn⟩
theorem drw (x y : Reg) (n : Nibble) : Statement (.drw x y n) := ⟨_, rfl, mask_xyn _ x y n⟩
theorem skp (x : Reg) : Statement (.skp x) := ⟨_, rfl, mask_x _ x _⟩
theorem sknp (x : Reg) : Statement (.sknp x) := ⟨_, rfl, mask_x _ x _⟩
theorem ldVxDt (x : Reg) : Statement (.ldVxDt x) := ⟨_, rfl, mask_x _ x _⟩
theorem ldVxK (x : Reg) : Statement (.ldVxK x) := ⟨_, rfl, mask_x _ x _⟩
theorem ldDtVx (x : Reg) : Statement (.ldDtVx x) := ⟨_, rfl, mask_x _ x _⟩
theorem ldStVx (x : Reg) : Statement (.ldStVx x) := ⟨_, rfl, mask_x _ x _⟩
theorem addI (x : Reg) : Statement (.addI x) := ⟨_, rfl, mask_x _ x _⟩
theorem ldF (x : Reg) : Statement (.ldF x) := ⟨_, rfl, mask_x _ x _⟩
theorem ldB (x : Reg) : Statement (.ldB x) := ⟨_, rfl, mask_x _ x _⟩
theorem stRegs (x : Reg) : Statement (.stRegs x) := ⟨_, rfl, mask_x _ x _⟩
theorem ldRegs (x : Reg) : Statement (.ldRegs x) := ⟨_, rfl, mask_x _ x _⟩

end Laws.EncodingInRow

end Sys2Proof
end

