-- ==== Sys2Proof/Laws/Step.lean ====
section
/-! SUPPORT. Everything one step can do, said once: halted, illegal opcode, or an instruction and the end of its
step. -/

namespace Sys2Proof.Machine

theorem step_cases {s t : State} (h : step s = .next t) :
    (s.halt = true ∧ t = s) ∨
    (s.halt = false ∧ ∃ e, decode s.fetch = .error e ∧ t = s.raise .unknownOpcode s.fetch) ∨
    (s.halt = false ∧ ∃ i u, decode s.fetch = .ok i ∧ exec i s = .next u ∧ t = u.endStep) := by
  unfold step cycle at h
  by_cases hh : s.halt = true
  · rw [if_pos hh] at h; injection h with h; exact .inl ⟨hh, h.symm⟩
  · rw [if_neg hh] at h
    refine .inr ?_
    rw [Bool.not_eq_true] at hh
    split at h
    · rename_i i hi
      cases hx : exec i s with
      | next u => rw [hx, endOutcome] at h; injection h with h; exact .inr ⟨hh, i, u, hi, hx, h.symm⟩
      | fault r => rw [hx, endOutcome] at h; cases h
      | refused r => rw [hx, endOutcome] at h; cases h
    · rename_i e he; injection h with h; exact .inl ⟨hh, e, he, h.symm⟩

/-- The word placed at PC is the word the next fetch reads. -/
theorem State.fetch_placeWord (s : State) (op : Word) : (s.placeWord op).fetch = op := by
  have h0 := s.clearRecord.memRead_memWriteList_at s.pc.toNat 0 (wordBytes op) (by simp [wordBytes])
    (by simp [wordBytes])
  have h1 := s.clearRecord.memRead_memWriteList_at s.pc.toNat 1 (wordBytes op) (by simp [wordBytes])
    (by simp [wordBytes])
  have hpc : (s.placeWord op).pc = s.pc := by simp [State.placeWord]; rfl
  rw [State.fetch, hpc]
  rw [Nat.add_zero] at h0
  unfold State.placeWord
  rw [h0, h1]
  apply BitVec.eq_of_getLsbD_eq
  intro k hk
  simp only [wordBytes, List.getElem_cons_zero, List.getElem_cons_succ]
  rw [BitVec.getLsbD_append, BitVec.getLsbD_extractLsb', BitVec.getLsbD_extractLsb']
  by_cases h : k < 8
  · simp [h]
  · have h' : k - 8 < 8 := by omega
    simp only [h, h', if_false, decide_true, Bool.true_and]
    congr 1; omega

end Sys2Proof.Machine
end

