-- ==== Sys2Proof/Tests/Slice0.lean ====
section
/-! SUPPORT. Tests on one step each, with results from spec/95_test_vectors.md (the vector's id in each comment), and a
witness for the hypotheses of every statement that has some. -/

namespace Sys2Proof.Tests

open Sys2Proof Sys2Proof.Machine

/-! ### Helpers -/

/-- A state like reset with some registers set. -/
def regs (rs : List (Reg × Byte)) : State := rs.foldl (fun s p => s.writeV p.1 p.2) State.reset

/-- The state one step after `op` is placed at PC; the state itself should the step stop, which no test accepts. -/
def after (s : State) (op : Nat) : State :=
  match step (s.withFetchWord 16 op) with
  | .next t => t
  | _ => s

def byteAt (t : State) (a : Nat) : Nat := (t.memRead a).toNat
def atPc (s : State) (pc : Word) : State := { s with pc := pc }

/-! ### The assembler's checks (30_encoding.md R100), an ill-formed term for each -/

theorem test_wf_accepts : (AsmForm.wellFormed ⟨.addReg, [3, 10]⟩) = true := by decide
theorem test_wf_shift_with_one_operand : (AsmForm.wellFormed ⟨.shr, [4]⟩) = true := by decide
theorem test_wf_refuses_register_16 : (AsmForm.wellFormed ⟨.skp, [16]⟩) = false := by decide
theorem test_wf_refuses_second_register_16 : (AsmForm.wellFormed ⟨.addReg, [3, 16]⟩) = false := by decide
theorem test_wf_refuses_nn_256 : (AsmForm.wellFormed ⟨.ldImm, [0, 256]⟩) = false := by decide
theorem test_wf_refuses_nnn_4096 : (AsmForm.wellFormed ⟨.jp, [4096]⟩) = false := by decide
theorem test_wf_refuses_n_16 : (AsmForm.wellFormed ⟨.drw, [1, 2, 16]⟩) = false := by decide
theorem test_wf_refuses_missing_operand : (AsmForm.wellFormed ⟨.ldImm, [0]⟩) = false := by decide
theorem test_wf_refuses_extra_operand : (AsmForm.wellFormed ⟨.cls, [0]⟩) = false := by decide
/-- R100's example: ADD V3, VA is 0x83A4, high byte first. -/
theorem test_assemble_add : (AsmItem.instr ⟨.addReg, [3, 10]⟩).bytes = some [0x83, 0xA4] := by decide
theorem test_db_refuses_256 : (AsmItem.db [1, 256]).bytes = none := by decide

/-! ### Decoding: one word of every row, bit by bit from R95, and illegal neighbours (95 2.1) -/

theorem test_decode_fixed : decode 0b0000000011100000 = .ok .cls ∧ decode 0b0000000011101110 = .ok .ret := by decide
theorem test_decode_nnn :
    decode 0b0001101010111100 = .ok (.jp 0xABC) ∧ decode 0b0010101010111100 = .ok (.call 0xABC) ∧
    decode 0b1010001100000000 = .ok (.ldI 0x300) ∧ decode 0b1011001011110000 = .ok (.jpV0 0x2F0) := by decide
theorem test_decode_xnn :
    decode 0b0011111100000000 = .ok (.seImm 15 0x00) ∧ decode 0b0100101001010101 = .ok (.sneImm 10 0x55) ∧
    decode 0b0110101000101011 = .ok (.ldImm 10 0x2B) ∧ decode 0b0111111111111111 = .ok (.addImm 15 0xFF) ∧
    decode 0b1100000100001111 = .ok (.rnd 1 0x0F) := by decide
theorem test_decode_skips_xy :
    decode 0b0101000100100000 = .ok (.seReg 1 2) ∧ decode 0b1001001101000000 = .ok (.sneReg 3 4) := by decide
theorem test_decode_alu :
    decode 0b1000000100100000 = .ok (.ldReg 1 2) ∧ decode 0b1000101010110001 = .ok (.orReg 10 11) ∧
    decode 0b1000101010110010 = .ok (.andReg 10 11) ∧ decode 0b1000101010110011 = .ok (.xorReg 10 11) ∧
    decode 0b1000101010110100 = .ok (.addReg 10 11) ∧ decode 0b1000101010110101 = .ok (.sub 10 11) ∧
    decode 0b1000000000000110 = .ok (.shr 0 0) ∧ decode 0b1000101010110111 = .ok (.subn 10 11) ∧
    decode 0b1000000000001110 = .ok (.shl 0 0) := by decide
theorem test_decode_drw : decode 0b1101000100100101 = .ok (.drw 1 2 5) := by decide
theorem test_decode_keys : decode 0b1110010110011110 = .ok (.skp 5) ∧ decode 0b1110010110100001 = .ok (.sknp 5) := by
  decide
theorem test_decode_timers :
    decode 0b1111001100000111 = .ok (.ldVxDt 3) ∧ decode 0b1111000100001010 = .ok (.ldVxK 1) ∧
    decode 0b1111101000010101 = .ok (.ldDtVx 10) ∧ decode 0b1111000000011000 = .ok (.ldStVx 0) := by decide
theorem test_decode_index :
    decode 0b1111001000011110 = .ok (.addI 2) ∧ decode 0b1111000000101001 = .ok (.ldF 0) ∧
    decode 0b1111001100110011 = .ok (.ldB 3) ∧ decode 0b1111001001010101 = .ok (.stRegs 2) ∧
    decode 0b1111001001100101 = .ok (.ldRegs 2) := by decide
theorem test_decode_illegal :
    [0x0000, 0x00E1, 0x01E0, 0x0123, 0x5121, 0x8008, 0x800F, 0x9341, 0xE09F, 0xF030, 0xFFFF].all
      (fun op => decode op == .error (.illegal op)) = true := by decide
theorem test_decode_too_short : decodeBytes [0x12] = .error .tooShort := by decide
theorem test_decode_bytes_big_endian : decodeBytes [0x12, 0x34, 0x56] = .ok (.jp 0x234, [0x56]) := by decide
theorem test_table_word : decodeTableWord 16 0xD125 = some (.drw 1 2 5) := by decide

/-! ### Control transfer (95 2.2) -/

def called : State := { State.reset with sp := 1, stack := State.reset.stack.set 0 0x0204, pc := 0x20C }
def full : State := { State.reset with sp := 16, stack := State.reset.stack.set 15 0x0FFE, pc := 0x300 }

/-- ctl-6 -/
theorem test_ret : (after called 0x00EE).pc = 0x206 ∧ (after called 0x00EE).sp = 0 ∧
    (after called 0x00EE).stack[0] = 0x0204 := by decide
/-- ctl-7, a return to a call site at 0xFFE -/
theorem test_ret_wraps : (after full 0x00EE).pc = 0x000 ∧ (after full 0x00EE).sp = 15 := by decide
/-- ctl-8 -/
theorem test_ret_underflow : (after State.reset 0x00EE).faultStatus = ⟨true, 3, 0x00EE, 0x200⟩ := by decide
/-- ctl-1 -/
theorem test_jp : (after State.reset 0x1ABC).pc = 0xABC := by decide
/-- ctl-3 -/
theorem test_call : (after (atPc State.reset 0x204) 0x220A).pc = 0x20A ∧
    (after (atPc State.reset 0x204) 0x220A).sp = 1 ∧ (after (atPc State.reset 0x204) 0x220A).stack[0] = 0x204 := by
  decide
/-- ctl-5 -/
theorem test_call_overflow : (after full 0x2400).faultStatus = ⟨true, 2, 0x2400, 0x300⟩ ∧
    (after full 0x2400).pc = 0x300 ∧ (after full 0x2400).sp = 16 := by decide
/-- ctl-9, ctl-10 -/
theorem test_seImm : (after (atPc State.reset 0x208) 0x3100).pc = 0x20C ∧
    (after (atPc (regs [(1, 1)]) 0x208) 0x3100).pc = 0x20A := by decide
/-- ctl-22 -/
theorem test_seImm_wraps : (after (atPc State.reset 0xFFE) 0x3000).pc = 0x002 := by decide
/-- ctl-11, ctl-12 -/
theorem test_sneImm : (after (atPc (regs [(2, 0x10)]) 0x300) 0x4210).pc = 0x302 ∧
    (after (atPc (regs [(2, 0x10)]) 0x300) 0x4211).pc = 0x304 := by decide
/-- ctl-13, ctl-14 -/
theorem test_seReg : (after (atPc (regs [(3, 0x7F), (4, 0x7F)]) 0x210) 0x5340).pc = 0x214 ∧
    (after (atPc (regs [(3, 0x7F), (4, 0x7E)]) 0x210) 0x5340).pc = 0x212 := by decide
/-- ctl-16, ctl-17 -/
theorem test_sneReg : (after (atPc (regs [(3, 1), (4, 2)]) 0x210) 0x9340).pc = 0x214 ∧
    (after (atPc State.reset 0x210) 0x9770).pc = 0x212 := by decide
/-- ctl-19, ctl-20 -/
theorem test_jpV0 : (after (regs [(0, 2)]) 0xBFFF).pc = 0x001 ∧
    (after (regs [(0, 0xFF), (2, 0x55)]) 0xB2F0).pc = 0x3EF := by decide

/-! ### ALU (95 2.3) -/

/-- alu-2 -/
theorem test_ldImm_vf : (after State.reset 0x6F7E).readV 15 = 0x7E := by decide
/-- alu-4 -/
theorem test_addImm_no_flag : (after (regs [(1, 0xFF)]) 0x7102).readV 1 = 0x01 ∧
    (after (regs [(1, 0xFF)]) 0x7102).readV 15 = 0 := by decide
/-- alu-5 -/
theorem test_ldReg : (after (regs [(2, 0x33), (15, 1)]) 0x8120).readV 1 = 0x33 := by decide
/-- alu-6 -/
theorem test_orReg_keeps_vf : (after (regs [(0, 0xF0), (1, 0x0F), (15, 1)]) 0x8011).readV 0 = 0xFF ∧
    (after (regs [(0, 0xF0), (1, 0x0F), (15, 1)]) 0x8011).readV 15 = 1 := by decide
/-- alu-7 -/
theorem test_andReg : (after (regs [(0, 0xF0), (1, 0x3C)]) 0x8012).readV 0 = 0x30 := by decide
/-- alu-8 -/
theorem test_xorReg : (after (regs [(0, 0xFF), (1, 0x0F)]) 0x8013).readV 0 = 0xF0 := by decide
/-- alu-10 -/
theorem test_addReg_carry : (after (regs [(0, 0xFF), (1, 1)]) 0x8014).readV 0 = 0 ∧
    (after (regs [(0, 0xFF), (1, 1)]) 0x8014).readV 15 = 1 := by decide
/-- alu-16: sum 3 is lost, flag 0 stands -/
theorem test_addReg_into_vf : (after (regs [(15, 2), (1, 1)]) 0x8F14).readV 15 = 0 := by decide
/-- alu-18 -/
theorem test_sub_borrow : (after (regs [(0, 5), (1, 10)]) 0x8015).readV 0 = 0xFB ∧
    (after (regs [(0, 5), (1, 10), (15, 1)]) 0x8015).readV 15 = 0 := by decide
/-- alu-20 -/
theorem test_sub_equal : (after (regs [(0, 7), (1, 7)]) 0x8015).readV 15 = 1 := by decide
/-- alu-25 -/
theorem test_shr_ignores_vy : (after (regs [(4, 5), (7, 0xF0)]) 0x8476).readV 4 = 2 ∧
    (after (regs [(4, 5), (7, 0xF0)]) 0x8476).readV 15 = 1 := by decide
/-- alu-27 -/
theorem test_shr_vf : (after (regs [(15, 6)]) 0x8F06).readV 15 = 0 := by decide
/-- alu-28, alu-29 -/
theorem test_subn : (after (regs [(0, 10), (1, 5)]) 0x8017).readV 0 = 0xFB ∧
    (after (regs [(0, 5), (1, 10)]) 0x8017).readV 15 = 1 := by decide
/-- alu-31 -/
theorem test_shl : (after (regs [(4, 0x81)]) 0x840E).readV 4 = 2 ∧
    (after (regs [(4, 0x81)]) 0x840E).readV 15 = 1 := by decide
/-- alu-35 -/
theorem test_shl_vf : (after (regs [(15, 0x41)]) 0x8F0E).readV 15 = 0 := by decide

/-! ### Index register and memory (95 2.4) -/

def withI (s : State) (i : Word) : State := { s with i := i }

/-- mem-2 -/
theorem test_ldI : (after State.reset 0xAFFF).i = 0x0FFF := by decide
/-- mem-3 -/
theorem test_addI_overflow : (after (withI (regs [(2, 3)]) 0xFFE) 0xF21E).i = 1 ∧
    (after (withI (regs [(2, 3)]) 0xFFE) 0xF21E).readV 15 = 1 := by decide
/-- mem-7: the old VF is the addend -/
theorem test_addI_vf : (after (withI (regs [(15, 5)]) 0xFFF) 0xFF1E).i = 4 := by decide
/-- mem-8, mem-12 -/
theorem test_ldF : (after (regs [(0, 0x0A)]) 0xF029).i = 0x32 ∧ (after (regs [(0, 0xFF)]) 0xF029).i = 0x4FB := by decide
/-- mem-13 -/
theorem test_ldB : [0x300, 0x301, 0x302, 0x303].map (byteAt (after (withI (regs [(3, 156)]) 0x300) 0xF333)) =
    [1, 5, 6, 0] := by decide
/-- mem-19: the first font byte is overwritten -/
theorem test_ldB_wraps : [0xFFE, 0xFFF, 0x000].map (byteAt (after (withI (regs [(3, 123)]) 0xFFE) 0xF333)) =
    [1, 2, 3] := by decide
/-- mem-20 -/
theorem test_stRegs : [0x400, 0x401, 0x402, 0x403].map
    (byteAt (after (withI (regs [(0, 0xAA), (1, 0xBB), (2, 0xCC), (3, 0xDD)]) 0x400) 0xF255)) =
    [0xAA, 0xBB, 0xCC, 0] := by decide
/-- mem-22 -/
theorem test_stRegs_wraps : [0xFFF, 0x000, 0x007, 0x008].map
    (byteAt (after (withI (regs [(7, 7), (8, 8), (15, 15)]) 0xFF8) 0xFF55)) = [7, 8, 15, 0x20] := by decide
/-- mem-23 -/
theorem test_ldRegs :
    let t := after ((withI (regs [(3, 0x9C)]) 0x300).memWriteList 0x300 [1, 5, 6, 7]) 0xF265
    t.readV 0 = 1 ∧ t.readV 2 = 6 ∧ t.readV 3 = 0x9C ∧ t.i = 0x300 := by decide

/-! ### Random, keys, timers (95 2.5) -/

/-- rnd-2: with nn = 0 the result is 0 whatever the byte is -/
theorem test_rnd_zero_mask : (after (regs [(1, 0x55)]) 0xC100).readV 1 = 0x00 := by
  simp only [after, show step ((regs [(1, 0x55)]).withFetchWord 16 0xC100) =
    endOutcome (exec (.rnd 1 0x00) ((regs [(1, 0x55)]).withFetchWord 16 0xC100)) from rfl]
  show (State.endStep _).readV 1 = 0x00
  have h : ∀ b : Byte, b &&& 0x00 = 0x00 := by decide
  exact h _
def keys (s : State) (k : BitVec 16) : State := { s with key := k }
/-- key-1, key-3: the low nibble names the key -/
theorem test_skp : (after (atPc (keys (regs [(5, 3)]) 0x0008) 0x220) 0xE59E).pc = 0x224 ∧
    (after (atPc (keys (regs [(5, 0x13)]) 0x0008) 0x220) 0xE59E).pc = 0x224 := by decide
/-- key-4, key-4b -/
theorem test_sknp : (after (atPc (regs [(5, 0x13)]) 0x220) 0xE5A1).pc = 0x224 ∧
    (after (atPc (keys (regs [(5, 3)]) 0x0008) 0x220) 0xE5A1).pc = 0x222 := by decide
/-- key-5: the tick happens -/
theorem test_ldVxK_waits :
    let t := after { regs [(1, 0x55)] with pc := 0x230, dt := 4 } 0xF10A
    t.pc = 0x230 ∧ t.readV 1 = 0x55 ∧ t.dt = 3 := by decide
/-- key-7: keys 3 and 9 -/
theorem test_ldVxK_least : (after (atPc (keys State.reset 0x0208) 0x230) 0xF10A).readV 1 = 3 ∧
    (after (atPc (keys State.reset 0x0208) 0x230) 0xF10A).pc = 0x232 := by decide
/-- tmr-1 -/
theorem test_ldVxDt : (after { State.reset with dt := 0x2A } 0xF307).readV 3 = 0x2A ∧
    (after { State.reset with dt := 0x2A } 0xF307).dt = 0x29 := by decide
/-- tmr-3, tmr-5 -/
theorem test_ldDtVx : (after (regs [(10, 3)]) 0xFA15).dt = 2 ∧
    (after { State.reset with dt := 9 } 0xFA15).dt = 0 := by decide
/-- tmr-6 -/
theorem test_ldStVx : (after (regs [(0, 0x10)]) 0xF018).st = 0x0F ∧
    (after (regs [(0, 0x10)]) 0xF018).soundActive = true := by decide
/-- tmr-9: a faulting step does not tick -/
theorem test_fault_no_tick : (after { State.reset with dt := 7, st := 7 } 0x0000).dt = 7 ∧
    (after { State.reset with dt := 7, st := 7 } 0x0000).faultStatus = ⟨true, 1, 0x0000, 0x200⟩ := by decide
/-- tmr-7, tmr-8: each timer on its own -/
theorem test_timers_apart : (after { State.reset with dt := 1 } 0x6000).dt = 0 ∧
    (after { State.reset with st := 5 } 0x6000).st = 4 := by decide

/-! ### Display (95 2.6) -/

def sprite (bs : List Byte) (s : State) : State := (withI s 0x300).memWriteList 0x300 bs

/-- dsp-1 -/
theorem test_cls : let t := after { State.reset with fb := Framebuffer.setPixel Framebuffer.blank 63 true } 0x00E0
    t.fb = Framebuffer.blank ∧ t.df = true := by decide
/-- dsp-2: both edges -/
theorem test_drw_wraps : let t := after (sprite [0xC0, 0x80] (regs [(1, 63), (2, 31)])) 0xD122
    t.fb.getPixel 2047 = true ∧ t.fb.getPixel 1984 = true ∧ t.fb.getPixel 63 = true ∧ t.fb.getPixel 0 = false ∧
    t.readV 15 = 0 ∧ t.df = true := by decide +kernel
/-- dsp-6, dsp-9: a collision; and the old VF as a coordinate -/
theorem test_drw_collides :
    (after (sprite [0xC0] { State.reset with fb := Framebuffer.setPixel Framebuffer.blank 0 true }) 0xD011).readV 15 = 1 ∧
    (after (sprite [0x80] (regs [(15, 7)])) 0xDF01).fb.getPixel 7 = true := by decide +kernel

/-! ### Host operations (95 2.7) -/

/-- host-2 -/
theorem test_load_too_large : (State.reset.load (List.replicate 3585 0x12#8)).1 = .loadError := by
  unfold State.load; rw [List.length_replicate]; rfl
/-- host-4, in part -/
theorem test_load_resets : let t := (State.load { full with halt := true, key := 0x10, df := true } [0x12, 0x00]).2
    t.sp = 0 ∧ t.key = 0 ∧ t.df = false ∧ t.halt = false ∧ t.pc = 0x200 ∧ t.fetch = 0x1200 := by decide
/-- host-5, host-6 -/
theorem test_setKey : (State.reset.setKey 15 true).2.key = 0x8000 ∧
    State.reset.setKey 16 true = (.keyIndexError, State.reset) := by decide
/-- host-7 -/
theorem test_takeDrawFlag : (State.takeDrawFlag { State.reset with df := true }).1 = .flag true ∧
    (State.takeDrawFlag { State.reset with df := true }).2.takeDrawFlag.1 = .flag false := by decide

/-! ### Witnesses: a concrete state and operands that meet the hypotheses of each statement that has some, at the
edges of each clause. The name after `witness_` is the statement's. -/

/-- `s` with the opcode placed where the next fetch reads it. -/
def placed (s : State) (op : Nat) : State := s.withFetchWord 16 op
def haltedState : State := after State.reset 0x0000
def lastKey : State := keys State.reset 0x8000

theorem witness_OpcodeRowsAreMutuallyExclusive :
    (⟨.jp, 0xF000, 0x1000⟩ : OpcodeRow) ∈ opcodeMap ∧ 0x1FFF#16 &&& 0xF000#16 = 0x1000#16 := by decide
theorem witness_EncodeOfDecodeIsTheOpcode : decode 0xDFFF#16 = .ok (.drw 15 15 15) := by decide
theorem witness_AssemblingPlacesOperandsOrFails_fixed : (⟨.ret, 0xFFFF, 0x00EE⟩ : OpcodeRow) ∈ opcodeMap ∧
    Mnemonic.ret.format = .fixed := by decide
theorem witness_AssemblingPlacesOperandsOrFails_nnn : (⟨.jpV0, 0xF000, 0xB000⟩ : OpcodeRow) ∈ opcodeMap ∧
    Mnemonic.jpV0.format = .nnn ∧ 4095 < 4096 ∧ 4096 ≤ 4096 := by decide
theorem witness_AssemblingPlacesOperandsOrFails_xnn : (⟨.rnd, 0xF000, 0xC000⟩ : OpcodeRow) ∈ opcodeMap ∧
    Mnemonic.rnd.format = .xnn ∧ (15 < 16 ∧ 255 < 256) ∧ (16 ≤ 15 ∨ 256 ≤ 256) := by decide
theorem witness_AssemblingPlacesOperandsOrFails_xy : (⟨.shl, 0xF00F, 0x800E⟩ : OpcodeRow) ∈ opcodeMap ∧
    Mnemonic.shl.format = .xy ∧ (15 < 16 ∧ 0 < 16) ∧ (16 ≤ 0 ∨ 16 ≤ 16) := by decide
theorem witness_AssemblingPlacesOperandsOrFails_xyn : (⟨.drw, 0xF000, 0xD000⟩ : OpcodeRow) ∈ opcodeMap ∧
    Mnemonic.drw.format = .xyn ∧ (15 < 16 ∧ 15 < 16 ∧ 15 < 16) ∧ (16 ≤ 0 ∨ 16 ≤ 0 ∨ 16 ≤ 16) := by decide
theorem witness_AssemblingPlacesOperandsOrFails_x : (⟨.ldRegs, 0xF0FF, 0xF065⟩ : OpcodeRow) ∈ opcodeMap ∧
    Mnemonic.ldRegs.format = .x ∧ 15 < 16 ∧ 16 ≤ 16 := by decide

/-- PC at the top of memory: the low byte of the opcode is at address 0. -/
def topJump : State := { State.reset.memWriteList 0xFFF [0x1F, 0xFF] with pc := 0x0FFF }
theorem witness_StepRunsTheDecodedInstruction : ∃ u, topJump.halt = false ∧
    topJump.memRead topJump.pc.toNat = 0x1F ∧ topJump.memRead ((topJump.pc.toNat + 1) % 4096) = 0xFF ∧
    decode (0x1F#8 ++ 0xFF#8) = .ok (.jp 0xFFF) ∧ exec (.jp 0xFFF) topJump = .next u :=
  ⟨_, by decide, by decide, by decide, by decide, rfl⟩
theorem witness_FetchIsBigEndian : (7 : Nat) < 8 ∧ topJump.fetch = 0x1FFF := by decide
theorem witness_TimersTickInEveryCompletedStep_completed : ∃ u, (placed State.reset 0x6F01).halt = false ∧
    decode (placed State.reset 0x6F01).fetch = .ok (.ldImm 15 1) ∧
    exec (.ldImm 15 1) (placed State.reset 0x6F01) = .next u ∧ u.halt = false :=
  ⟨_, by decide, by decide, rfl, by decide⟩
theorem witness_TimersTickInEveryCompletedStep_faulting : ∃ u, (placed full 0x2400).halt = false ∧
    decode (placed full 0x2400).fetch = .ok (.call 0x400) ∧ exec (.call 0x400) (placed full 0x2400) = .next u ∧
    u.halt = true := ⟨_, by decide, by decide, rfl, by decide⟩
theorem witness_TimersTickInEveryCompletedStep_illegal : ∃ t, (placed State.reset 0xFFFF).halt = false ∧
    decode (placed State.reset 0xFFFF).fetch = .error (.illegal 0xFFFF) ∧ step (placed State.reset 0xFFFF) = .next t :=
  ⟨_, by decide, by decide, rfl⟩
theorem witness_TimersTickInEveryCompletedStep_halted : ∃ t, haltedState.halt = true ∧ step haltedState = .next t :=
  ⟨_, by decide, rfl⟩
theorem witness_IllegalOpcodeRaisesUnknownOpcode : (placed State.reset 0x5001).halt = false ∧
    decode (placed State.reset 0x5001).fetch = .error (.illegal (placed State.reset 0x5001).fetch) := by decide
theorem witness_StackFaultsWriteOnlyTheRecord_overflow : (placed full 0x2FFF).halt = false ∧
    decode (placed full 0x2FFF).fetch = .ok (.call 0xFFF) ∧ (placed full 0x2FFF).sp.val = 16 := by decide
theorem witness_StackFaultsWriteOnlyTheRecord_underflow : (placed State.reset 0x00EE).halt = false ∧
    decode (placed State.reset 0x00EE).fetch = .ok .ret ∧ (placed State.reset 0x00EE).sp.val = 0 := by decide
theorem witness_HaltedStepChangesNothing : haltedState.halt = true := by decide

theorem witness_RetPopsTheCallSite : 0 < 16 ∧ called.sp.val = 0 + 1 ∧ 15 < 16 ∧ full.sp.val = 15 + 1 := by decide
theorem witness_RetOnAnEmptyStackUnderflows : State.reset.sp.val = 0 := by decide
theorem witness_JpSetsPc : 0x1FFF#16 &&& 0xF000#16 = 0x1000#16 ∧ 0x1000#16 &&& 0xF000#16 = 0x1000#16 := by decide
theorem witness_CallPushesTheCallSite : 0x2FFF#16 &&& 0xF000#16 = 0x2000#16 ∧ State.reset.sp.val < 16 ∧
    State.sp { full with sp := 15 } < 16 ∧ full.sp.val = 16 := by decide
theorem witness_ReturnResumesAfterTheCall : ∃ t u, State.reset.sp.val < 16 ∧
    exec (.call 0x300) State.reset = .next t ∧ exec .ret t = .next u ∧ 15 < 16 ∧ 15 ≠ State.reset.sp.val :=
  ⟨_, _, by decide, rfl, rfl, by decide, by decide⟩
theorem witness_LdImmLoadsTheImmediate : 0x6FFF#16 &&& 0xF000#16 = 0x6000#16 := by decide
theorem witness_AddImmWrapsWithoutFlag : 0x7FFF#16 &&& 0xF000#16 = 0x7000#16 ∧ (0xE#4 : Reg) ≠ 0xF := by decide
theorem witness_CopyAndLogicWriteOnlyVx : (0xF#4 : Reg) ≠ 0x0 ∧ (7 : Nat) < 8 := by decide
theorem witness_AddRegCarriesIntoVf : (0xE#4 : Reg) ≠ Reg.vf ∧ (0x0#4 : Reg) ≠ 0xE ∧ (0x0#4 : Reg) ≠ Reg.vf := by
  decide
theorem witness_SubtractionsSetVfWhenNoBorrow : (0x0#4 : Reg) ≠ Reg.vf ∧ (0xE#4 : Reg) ≠ 0x0 ∧
    (0xE#4 : Reg) ≠ Reg.vf := by decide
theorem witness_ShiftsMoveVxByOne : (0x4#4 : Reg) ≠ Reg.vf ∧ (0x5#4 : Reg) ≠ 0x4 ∧ (0x5#4 : Reg) ≠ Reg.vf := by decide
theorem witness_LdILoadsTheAddress : 0xAFFF#16 &&& 0xF000#16 = 0xA000#16 := by decide
theorem witness_AddIKeepsTwelveBitsAndFlagsOverflow : (0xE#4 : Reg) ≠ Reg.vf := by decide
theorem witness_LdFPointsAtTheGlyph : 0xFF29#16 &&& 0xF0FF#16 = 0xF029#16 := by decide

/-- I = 0xFFE: the addresses next to the three stored ones, 0xFFE, 0xFFF and 0x000. -/
theorem witness_LdBStoresThreeDecimalDigits :
    (∀ k < 3, 0xFFD % 4096 ≠ ((withI State.reset 0xFFE).i.toNat + k) % 4096) ∧
    (∀ k < 3, 0x001 % 4096 ≠ ((withI State.reset 0xFFE).i.toNat + k) % 4096) := by decide
/-- I = 0xFFE, x = 2: the same addresses are stored; register 2 is the last stored. -/
theorem witness_StRegsStoresV0ToVx : (0x2#4).toNat ≤ (0x2#4).toNat ∧
    (∀ k ≤ (0x2#4).toNat, 0xFFD % 4096 ≠ ((withI State.reset 0xFFE).i.toNat + k) % 4096) ∧
    (∀ k ≤ (0x2#4).toNat, 0x001 % 4096 ≠ ((withI State.reset 0xFFE).i.toNat + k) % 4096) := by decide
theorem witness_StoredRegistersLoadBack : ∃ t u, exec (.stRegs 15) State.reset = .next t ∧
    exec (.ldRegs 15) { t with v := Vector.replicate 16 0x77#8 } = .next u ∧ (0xF#4).toNat ≤ (0xF#4).toNat :=
  ⟨_, _, rfl, rfl, by decide⟩
/-- mem-25: V0, V1 stored at 0x202, where PC is after the store. -/
theorem witness_StoredBytesAreFetched : ∃ t, exec (.stRegs 1) (withI State.reset 0x202) = .next t ∧
    (0x1#4).toNat ≤ (0x1#4).toNat ∧ (0x0#4).toNat + 1 = (0x1#4).toNat ∧
    t.pc.toNat % 4096 = ((withI State.reset 0x202).i.toNat + (0x0#4).toNat) % 4096 :=
  ⟨_, rfl, by decide, by decide, by decide⟩
theorem witness_RndMasksTheFreeByte : (7 : Nat) < 8 ∧ (0x7F#8).getLsbD 7 = false ∧ (0x0#4 : Reg) ≠ 0xF := by decide
theorem witness_LdVxKWaitsThenReportsTheLeastKey : (∀ k < 16, State.reset.key.getLsbD k = false) ∧
    (0 < 16 ∧ (keys State.reset 0xFFFF).key.getLsbD 0 = true ∧ ∀ j < 0, (keys State.reset 0xFFFF).key.getLsbD j = false) ∧
    (15 < 16 ∧ lastKey.key.getLsbD 15 = true ∧ ∀ j < 15, lastKey.key.getLsbD j = false) := by decide
theorem witness_DelayTimerFallsByOnePerStep_read : (placed State.reset 0xFF07).halt = false ∧
    decode (placed State.reset 0xFF07).fetch = .ok (.ldVxDt 15) := by decide
theorem witness_DelayTimerFallsByOnePerStep_write : (placed State.reset 0xFF15).halt = false ∧
    decode (placed State.reset 0xFF15).fetch = .ok (.ldDtVx 15) := by decide
theorem witness_DelayTimerFallsByOnePerStep_other : ∃ t, (placed State.reset 0xFF18).halt = false ∧
    decode (placed State.reset 0xFF18).fetch = .ok (.ldStVx 15) ∧ (∀ x, Instr.ldStVx 15 ≠ .ldDtVx x) ∧
    step (placed State.reset 0xFF18) = .next t ∧ t.halt = false :=
  ⟨_, by decide, by decide, by intro x; exact Instr.noConfusion, rfl, by decide⟩

theorem witness_ClsClearsEveryCell : 0 < 2048 ∧ 2047 < 2048 := by decide
/-- Row 0, column 0 of an 0x80 row at (63, 31) covers the last cell; register 14 is not VF. -/
theorem witness_DrwXorsTheSpriteImage : 2047 < 2048 ∧ (0xE#4 : Reg) ≠ Reg.vf ∧
    SpriteCovers (sprite [0x80] State.reset) 63 31 1 2047 :=
  ⟨by decide, by decide, 0, 0, by decide, by decide, by decide, by decide⟩
theorem witness_DrawingTwiceRestoresTheFramebuffer : ∃ t u, (0x0#4 : Reg) ≠ Reg.vf ∧ (0xE#4 : Reg) ≠ Reg.vf ∧
    exec (.drw 0 14 15) (sprite [0xFF] State.reset) = .next t ∧ exec (.drw 0 14 15) t = .next u :=
  ⟨_, _, by decide, by decide, rfl, rfl⟩

theorem witness_OnlyNamedInstructionsWriteEachPart : ∃ t, exec .cls State.reset = .next t := ⟨_, rfl⟩
theorem witness_VfIsWrittenOnlyAsFlagOrDestination_register : ∃ t, exec (.addReg 3 4) State.reset = .next t ∧
    namesForWriting (.addReg 3 4) 14 = false ∧ (writesFlag (.addReg 3 4) = true → (14 : Reg) ≠ Reg.vf) :=
  ⟨_, rfl, by decide, by decide⟩
/-- A logic operation leaves VF itself alone. -/
theorem witness_VfIsWrittenOnlyAsFlagOrDestination_vf : ∃ t, exec (.orReg 3 4) State.reset = .next t ∧
    namesForWriting (.orReg 3 4) Reg.vf = false ∧ (writesFlag (.orReg 3 4) = true → Reg.vf ≠ Reg.vf) :=
  ⟨_, rfl, by decide, by decide⟩
theorem witness_VfIsWrittenOnlyAsFlagOrDestination_flag : ∃ t, exec (.addI 15) State.reset = .next t ∧
    writesFlag (.addI 15) = true := ⟨_, rfl, by decide⟩
theorem witness_PcFollowsItsClass : ∃ t, exec .ret State.reset = .next t := ⟨_, rfl⟩
theorem witness_InputsReachOnlyTheirInstructions_key : ∃ t, exec (.rnd 1 2) State.reset = .next t ∧
    (∀ x, Instr.rnd 1 2 ≠ .skp x) ∧ (∀ x, Instr.rnd 1 2 ≠ .sknp x) ∧ (∀ x, Instr.rnd 1 2 ≠ .ldVxK x) :=
  ⟨_, rfl, by intro x; exact Instr.noConfusion, by intro x; exact Instr.noConfusion,
    by intro x; exact Instr.noConfusion⟩
theorem witness_InputsReachOnlyTheirInstructions_rnd : ∃ t, exec (.ldVxK 1) State.reset = .next t ∧
    (∀ x nn, Instr.ldVxK 1 ≠ .rnd x nn) := ⟨_, rfl, by intro x nn; exact Instr.noConfusion⟩

/-- `called`, but with another ST, DF and dead stack entry. -/
def calledTwin : State := { called with st := 9, df := true, stack := called.stack.set 1 0x0777 }
theorem witness_ProgramsCannotTellStDfOrDeadEntries : ∃ t, SameToPrograms called calledTwin ∧
    called ≠ calledTwin ∧ step called = .next t := by
  refine ⟨_, ⟨rfl, rfl, rfl, rfl, rfl, ?_, rfl, rfl, rfl, ⟨rfl, rfl, rfl, rfl⟩, rfl⟩, by decide, rfl⟩
  intro k h hk
  have h0 : k = 0 := Nat.lt_one_iff.mp hk
  subst h0; rfl
theorem witness_QuiescentStateIsFixed : State.Quiescent (placed State.reset 0x1200) :=
  ⟨by decide, by decide, by decide, by decide, by decide⟩
theorem witness_WaitingStepOnlyTicks : State.Waiting (placed State.reset 0xF00A) :=
  ⟨by decide, ⟨0, by decide⟩, by decide⟩

theorem witness_ResetLeavesTheTableValues : 15 < 16 ∧ 2047 < 2048 ∧ 0x04F < 0x050 ∧ 0x050 ≤ 0x050 ∧ 0xFFF < 4096 := by
  decide
theorem witness_LoadResetsAndPlacesTheRom : (List.replicate 3584 0x12#8).length ≤ 3584 ∧
    3584 < (List.replicate 3585 0x12#8).length := by
  rw [List.length_replicate, List.length_replicate]; decide
theorem witness_SetKeyWritesOneBit : 15 ≤ 15 ∧ 15 < 16 ∧ 0 ≤ 15 := by decide
theorem witness_SnapshotIsTheCellsInIndexOrder : 31 < 32 ∧ 63 < 64 := by decide
theorem witness_TakeDrawFlagReadsAndClears : ∃ r t,
    Move.apply .step (placed { State.reset with df := true } 0x6000) = .next (r, t) ∧
    Move.step ≠ .host .takeDrawFlag ∧ (∀ rom, Move.step ≠ .host (.load rom)) ∧
    (placed { State.reset with df := true } 0x6000).df = true :=
  ⟨_, _, rfl, by decide, by intro rom; exact Move.noConfusion, by decide⟩

/-- A state with a live stack entry that meets the invariant. -/
theorem called_inv : called.Inv where
  memory := by decide
  pc := by decide
  i := by decide
  fpc := by decide
  live := by
    intro k h hk
    have h0 : k = 0 := Nat.lt_one_iff.mp hk
    subst h0; show (0x0204#16).toNat ≤ 0x0FFF; decide
  cause := by decide
  record := by decide
theorem witness_StatusPortsReadTheRegisters : called.Inv ∧ called.halt = false := ⟨called_inv, by decide⟩
theorem witness_OnlyLoadLeavesTheHaltedState : ∃ r t, haltedState.halt = true ∧
    Move.apply (.host (.setKey 3 true)) haltedState = .next (r, t) ∧
    (∀ rom, Move.host (.setKey 3 true) ≠ .host (.load rom)) :=
  ⟨_, _, by decide, rfl, by intro rom h; injection h with h; cases h⟩
theorem witness_EveryStepKeepsTheInvariant : ∃ t, called.Inv ∧ step called = .next t := ⟨_, called_inv, rfl⟩
theorem witness_EveryHostOperationKeepsTheInvariant : called.Inv := called_inv

end Sys2Proof.Tests
end

section
/-! SUPPORT. What the three instructions that branch on the state answer in each branch (00EE, 2nnn, Fx0A), what a
step answers in each of its cases, and that both are total (60_exceptions.md R270, R278; log 28). -/

namespace Sys2Proof.Machine

variable {s t u : State}

/-! ### The branching instructions -/

theorem exec_ret_of_pop_eq_some {entry : Word} (h : s.pop = some (entry, t)) :
    exec .ret s = .next (t.writePc (entry.toNat + 2)) := by
  rw [exec, execRet, h]

theorem exec_ret_of_pop_eq_none (h : s.pop = none) :
    exec .ret s = .next (s.raise .stackUnderflow (encode .ret)) := by
  rw [exec, execRet, h]

theorem exec_call_of_push_eq_some {nnn : Addr} (h : s.push s.pc = some t) :
    exec (.call nnn) s = .next (t.writePc nnn.toNat) := by
  rw [exec, execCall, h]

theorem exec_call_of_push_eq_none {nnn : Addr} (h : s.push s.pc = none) :
    exec (.call nnn) s = .next (s.raise .stackOverflow (encode (.call nnn))) := by
  rw [exec, execCall, h]

theorem exec_ldVxK_of_leastKey_eq_some {x : Reg} {k : Nat} (h : s.leastKey = some k) :
    exec (.ldVxK x) s = .next ((s.writeV x (BitVec.ofNat 8 k)).advance 2) := by
  rw [exec, execLdVxK, h]

theorem exec_ldVxK_of_leastKey_eq_none {x : Reg} (h : s.leastKey = none) :
    exec (.ldVxK x) s = .next s := by
  rw [exec, execLdVxK, h]

/-- Every instruction answers a next state from every state: a stack fault is one (R278), and so is the wait of
Fx0A (R214). The other 31 arms of `exec` are a next state as they stand. -/
theorem exec_answers_next (i : Instr) (s : State) : ∃ t, exec i s = .next t := by
  cases i with
  | ret =>
    cases h : s.pop with
    | none => exact ⟨_, exec_ret_of_pop_eq_none h⟩
    | some popped => exact ⟨_, exec_ret_of_pop_eq_some h⟩
  | call nnn =>
    cases h : s.push s.pc with
    | none => exact ⟨_, exec_call_of_push_eq_none h⟩
    | some pushed => exact ⟨_, exec_call_of_push_eq_some h⟩
  | ldVxK x =>
    cases h : s.leastKey with
    | none => exact ⟨_, exec_ldVxK_of_leastKey_eq_none h⟩
    | some k => exact ⟨_, exec_ldVxK_of_leastKey_eq_some h⟩
  | _ => exact ⟨_, rfl⟩

/-! ### The step -/

theorem step_of_halt_eq_true (h : s.halt = true) : step s = .next s := by
  rw [step, cycle, if_pos h]

theorem step_of_decode_eq_error {e : Reject} (hs : s.halt = false) (hd : decode s.fetch = .error e) :
    step s = .next (s.raise .unknownOpcode s.fetch) := by
  rw [step, cycle, if_neg (by simp [hs]), hd]

theorem step_of_exec_eq_next {i : Instr} (hs : s.halt = false) (hd : decode s.fetch = .ok i)
    (hx : exec i s = .next u) : step s = .next u.endStep := by
  rw [step, cycle, if_neg (by simp [hs]), hd]
  simp only [hx, endOutcome]

/-- Settles O14: a halted step answers its own state, an illegal opcode the recorded fault, and a decoded instruction
the state it leaves (`exec_answers_next`) with the end of the step. -/
theorem stepAlwaysAnswersANextState : Obligations.StepAlwaysAnswersANextState := by
  intro s
  cases hs : s.halt with
  | true => exact ⟨s, step_of_halt_eq_true hs⟩
  | false =>
    cases hd : decode s.fetch with
    | error e => exact ⟨_, step_of_decode_eq_error hs hd⟩
    | ok i =>
      obtain ⟨u, hx⟩ := exec_answers_next i s
      exact ⟨u.endStep, step_of_exec_eq_next hs hd hx⟩

end Sys2Proof.Machine
end

section
/-! SUPPORT. What the three branching instructions can do, inverted (00EE, 2nnn, Fx0A), and the frame of every
operation: which parts of the state it leaves as they are (10_state.md R20, R22, R23). -/

namespace Sys2Proof.Machine

variable {s t : State} {x : Reg}

/-! ### The branching instructions, inverted -/

theorem exec_ret_cases (h : exec .ret s = .next t) :
    (s.sp.val = 0 ∧ t = s.raise .stackUnderflow (encode .ret)) ∨
    ∃ k, ∃ hk : k < 16, ∃ p : Fin 17, s.sp.val = k + 1 ∧ p.val = k ∧
      t = State.writePc { s with sp := p } (s.stack[k].toNat + 2) := by
  obtain ⟨hsp, hpop⟩ | ⟨k, hk, hsp, u, hpop, hu, hu'⟩ := s.pop_cases
  · rw [exec_ret_of_pop_eq_none hpop] at h
    cases h
    exact .inl ⟨hsp, rfl⟩
  · rw [exec_ret_of_pop_eq_some hpop] at h
    cases h
    exact .inr ⟨k, hk, u.sp, hsp, hu, by rw [← hu']⟩

theorem exec_call_cases {nnn : Addr} (h : exec (.call nnn) s = .next t) :
    (s.sp.val = 16 ∧ t = s.raise .stackOverflow (encode (.call nnn))) ∨
    ∃ hsp : s.sp.val < 16, ∃ p : Fin 17, p.val = s.sp.val + 1 ∧
      t = State.writePc { s with stack := s.stack.set s.sp.val s.pc hsp, sp := p } nnn.toNat := by
  obtain ⟨hsp, hpush⟩ | ⟨hsp, u, hpush, hu, hu'⟩ := s.push_cases s.pc
  · rw [exec_call_of_push_eq_none hpush] at h
    cases h
    exact .inl ⟨hsp, rfl⟩
  · rw [exec_call_of_push_eq_some hpush] at h
    cases h
    exact .inr ⟨hsp, u.sp, hu, by rw [← hu']⟩

theorem exec_ldVxK_cases (h : exec (.ldVxK x) s = .next t) :
    (s.leastKey = none ∧ t = s) ∨
    ∃ k, s.leastKey = some k ∧ t = (s.writeV x (BitVec.ofNat 8 k)).advance 2 := by
  cases hk : s.leastKey with
  | none =>
    rw [exec_ldVxK_of_leastKey_eq_none hk] at h
    cases h
    exact .inl ⟨rfl, rfl⟩
  | some k =>
    rw [exec_ldVxK_of_leastKey_eq_some hk] at h
    cases h
    exact .inr ⟨k, rfl, rfl⟩

/-! ### The frame of every operation

Each operation keeps a frame that lists the part it writes. Where `c` is the `mayWrite` of an instruction, that the part
is listed is found by unfolding `mayWrite`. -/

namespace Frame

variable {c : List Part}

theorem refl : Frame c s s where
  v _ _ := rfl
  i _ := rfl
  pc _ := rfl
  stack _ := rfl
  sp _ := rfl
  dt _ := rfl
  st _ := rfl
  mem _ _ := rfl
  fb _ := rfl
  df _ := rfl
  key _ := rfl
  record _ := ⟨rfl, rfl, rfl, rfl⟩
  rnd _ := rfl

variable (f : Frame c s t)
include f

theorem writePc (a : Nat) (h : .pc ∈ c := by simp [mayWrite]) : Frame c s (t.writePc a) :=
  { f with pc := fun n => absurd h n }

theorem advance (k : Nat) (h : .pc ∈ c := by simp [mayWrite]) : Frame c s (t.advance k) := f.writePc _ h

theorem skipIf (b : Bool) (h : .pc ∈ c := by simp [mayWrite]) : Frame c s (t.skipIf b) := f.advance _ h

theorem writeI (a : Nat) (h : .i ∈ c := by simp [mayWrite]) : Frame c s (t.writeI a) :=
  { f with i := fun n => absurd h n }

theorem writeV (r : Reg) (b : Byte) (h : .v ∈ c := by simp [mayWrite]) : Frame c s (t.writeV r b) :=
  { f with v := fun n => absurd h n }

theorem writeWithFlag (r : Reg) (b : Byte) (flag : Bool) (h : .v ∈ c := by simp [mayWrite]) :
    Frame c s (t.writeWithFlag r b flag) :=
  (f.writeV r b h).writeV _ _ h

theorem loadRegs (k : Nat) (h : .v ∈ c := by simp [mayWrite]) : Frame c s (t.loadRegs k) := by
  induction k with
  | zero => exact f
  | succ k ih => exact ih.writeV _ _ h

theorem memWrite (a : Nat) (b : Byte) (h : .mem ∈ c := by simp [mayWrite]) : Frame c s (t.memWrite a b) :=
  { f with mem := fun n => absurd h n }

theorem setSp (p : Fin 17) (h : .sp ∈ c := by simp [mayWrite]) : Frame c s { t with sp := p } :=
  { f with sp := fun n => absurd h n }

theorem setStack (w : Vector Word 16) (p : Fin 17) (h : .stack ∈ c := by simp [mayWrite])
    (h' : .sp ∈ c := by simp [mayWrite]) : Frame c s { t with stack := w, sp := p } :=
  { f with stack := fun n => absurd h n, sp := fun n => absurd h' n }

theorem setDt (b : Byte) (h : .dt ∈ c := by simp [mayWrite]) : Frame c s { t with dt := b } :=
  { f with dt := fun n => absurd h n }

theorem setSt (b : Byte) (h : .st ∈ c := by simp [mayWrite]) : Frame c s { t with st := b } :=
  { f with st := fun n => absurd h n }

theorem setDisplay (fb : Framebuffer) (b : Bool) (h : .fb ∈ c := by simp [mayWrite])
    (h' : .df ∈ c := by simp [mayWrite]) : Frame c s { t with fb := fb, df := b } :=
  { f with fb := fun n => absurd h n, df := fun n => absurd h' n }

theorem sampleRnd (h : .rnd ∈ c := by simp [mayWrite]) : Frame c s t.sampleRnd.2 :=
  { f with rnd := fun n => absurd h n }

theorem raise (cause : FaultCause) (op : Word) (h : .record ∈ c := by simp [mayWrite]) :
    Frame c s (t.raise cause op) :=
  { f with record := fun n => absurd h n }

omit f in
theorem memWriteList (f : Frame c s t) (a : Nat) (bs : List Byte) (h : .mem ∈ c := by simp [mayWrite]) :
    Frame c s (t.memWriteList a bs) := by
  induction bs generalizing t a with
  | nil => exact f
  | cons b bs ih => exact ih (f.memWrite a b h) (a + 1)

end Frame

/-- What an instruction may write (`mayWrite`) is all it writes: each arm is a chain of operations, and every operation
of it writes a part that `mayWrite` names. -/
theorem exec_frame {i : Instr} (h : exec i s = .next t) : Frame (mayWrite i) s t := by
  cases i with
  | cls =>
    cases h
    exact (Frame.refl.setDisplay _ _).advance _
  | ret =>
    obtain ⟨-, rfl⟩ | ⟨k, hk, p, -, -, rfl⟩ := exec_ret_cases h
    · exact Frame.refl.raise _ _
    · exact (Frame.refl.setSp p).writePc _
  | call nnn =>
    obtain ⟨-, rfl⟩ | ⟨hsp, p, -, rfl⟩ := exec_call_cases h
    · exact Frame.refl.raise _ _
    · exact (Frame.refl.setStack _ p).writePc _
  | ldVxK x =>
    obtain ⟨-, rfl⟩ | ⟨k, -, rfl⟩ := exec_ldVxK_cases h
    · exact Frame.refl
    · exact (Frame.refl.writeV _ _).advance _
  | jp nnn | jpV0 nnn =>
    cases h
    exact Frame.refl.writePc _
  | seImm x nn | sneImm x nn | seReg x y | sneReg x y | skp x | sknp x =>
    cases h
    exact Frame.refl.skipIf _
  | ldImm x nn | addImm x nn | ldReg x y | orReg x y | andReg x y | xorReg x y | ldVxDt x =>
    cases h
    exact (Frame.refl.writeV _ _).advance _
  | addReg x y | sub x y | shr x y | subn x y | shl x y =>
    cases h
    exact (Frame.refl.writeWithFlag _ _ _).advance _
  | ldI nnn | ldF x =>
    cases h
    exact (Frame.refl.writeI _).advance _
  | rnd x nn =>
    cases h
    exact (Frame.refl.sampleRnd.writeV _ _).advance _
  | drw x y n =>
    cases h
    exact ((Frame.refl.setDisplay _ _).writeV _ _).advance _
  | ldDtVx x =>
    cases h
    exact (Frame.refl.setDt _).advance _
  | ldStVx x =>
    cases h
    exact (Frame.refl.setSt _).advance _
  | addI x =>
    cases h
    exact ((Frame.refl.writeI _).writeV _ _).advance _
  | ldB x | stRegs x =>
    cases h
    exact (Frame.refl.memWriteList _ _).advance _
  | ldRegs x =>
    cases h
    exact (Frame.refl.loadRegs _).advance _

/-- Settles O44: it is the frame of each instruction. -/
theorem onlyNamedInstructionsWriteEachPart : Obligations.OnlyNamedInstructionsWriteEachPart :=
  fun _ _ _ h => exec_frame h

/-! ### Registers and the flag -/

/-- A flag-writing instruction leaves a flag in VF, whatever its destination: the flag is written last (R171). -/
theorem exec_flag {i : Instr} (h : exec i s = .next t) (hf : writesFlag i = true) :
    ∃ flag, t.readV Reg.vf = flagByte flag := by
  cases i with
  | addReg x y | sub x y | shr x y | subn x y | shl x y =>
    cases h
    exact ⟨_, by rw [State.readV_advance, State.readV_writeWithFlag, if_pos rfl]⟩
  | addI x | drw x y n =>
    cases h
    exact ⟨_, by rw [State.readV_advance, State.readV_writeV, if_pos rfl]⟩
  | _ => cases hf

/-- A register that is neither a destination nor written as the flag is as before. The instructions that write no
register at all have it from their frame. -/
theorem exec_readV_other {i : Instr} {r : Reg} (h : exec i s = .next t) (hr : namesForWriting i r = false)
    (hf : writesFlag i = true → r ≠ Reg.vf) : t.readV r = s.readV r := by
  cases i with
  | ldImm x nn | addImm x nn | ldReg x y | orReg x y | andReg x y | xorReg x y | ldVxDt x | rnd x nn =>
    cases h
    have hx : r ≠ x := by simpa [namesForWriting] using hr
    simp [hx]
  | ldVxK x =>
    obtain ⟨-, rfl⟩ | ⟨k, -, rfl⟩ := exec_ldVxK_cases h
    · rfl
    · have hx : r ≠ x := by simpa [namesForWriting] using hr
      simp [hx]
  | addReg x y | sub x y | shr x y | subn x y | shl x y =>
    cases h
    have hx : r ≠ x := by simpa [namesForWriting] using hr
    rw [State.readV_advance, State.readV_writeWithFlag, if_neg (hf rfl), if_neg hx]
  | addI x | drw x y n =>
    cases h
    rw [State.readV_advance, State.readV_writeV, if_neg (hf rfl)]
    rfl
  | ldRegs x =>
    cases h
    have hx : ¬ r.toNat < x.toNat + 1 := by simpa [namesForWriting, Nat.lt_succ_iff] using hr
    rw [State.readV_advance, State.readV_loadRegs _ _ x.isLt, if_neg hx]
  | _ => exact (exec_frame h).v (by simp [mayWrite]) r

/-- Settles O45: other registers are as before (`exec_readV_other`), and VF as a flag is 0x00 or 0x01. -/
theorem vfIsWrittenOnlyAsFlagOrDestination : Obligations.VfIsWrittenOnlyAsFlagOrDestination := by
  refine ⟨fun i s t r h hr hf => exec_readV_other h hr hf, fun i s t h hf => ?_⟩
  obtain ⟨flag, hflag⟩ := exec_flag h hf
  rw [hflag]
  exact flagByte_zero_or_one flag

end Sys2Proof.Machine
end

section
/-! SUPPORT. The machine's invariant (10_state.md R38) at reset and through every operation, instruction, step and host
operation; and the reset table (R37). -/

namespace Sys2Proof.Machine

variable {s t : State}

/-! ### Reset -/

/-- A byte after reset: FONT's, and zero above it (R30, R37). -/
theorem State.memRead_reset {a : Nat} (h : a < 4096) : State.reset.memRead a = Config.font.getD a 0x00#8 := by
  simp [State.memRead, portAddr, Nat.mod_eq_of_lt h, State.reset, Memory.read, Config.resetByte]

/-- Settles O51: every register is a replicated zero or stands in the reset record, and memory lists no cell. -/
theorem resetLeavesTheTableValues : Obligations.ResetLeavesTheTableValues := by
  refine ⟨fun r => by simp [State.readV, State.reset], rfl, rfl, fun k h => by simp [State.reset], rfl, rfl, rfl, rfl,
    fun p _ => Framebuffer.blank_getPixel p, rfl, rfl, rfl, rfl, rfl,
    fun a h => State.memRead_reset (by omega), fun a h h' => ?_⟩
  rw [State.memRead_reset h']
  exact List.getD_eq_default _ _ h

namespace State.Inv

theorem reset : State.reset.Inv where
  memory := State.reset_wf
  pc := by decide
  i := by decide
  fpc := by decide
  live k _ hk := absurd hk (Nat.not_lt_zero k)
  cause := by decide
  record _ := ⟨rfl, rfl⟩

end State.Inv

/-- Settles O58: memory lists no cell, no stack entry is live, and every register of the invariant is a literal. -/
theorem resetSatisfiesTheInvariant : Obligations.ResetSatisfiesTheInvariant := State.Inv.reset

/-! ### The operations -/

namespace State.Inv

variable (h : s.Inv)
include h

theorem writePc (a : Nat) : (s.writePc a).Inv :=
  { h with pc := by rw [State.writePc_pc]; omega }

theorem advance (k : Nat) : (s.advance k).Inv := h.writePc _

theorem skipIf (b : Bool) : (s.skipIf b).Inv := h.advance _

theorem writeI (a : Nat) : (s.writeI a).Inv :=
  { h with i := by rw [State.writeI_i]; omega }

theorem writeV (r : Reg) (b : Byte) : (s.writeV r b).Inv := { h with }

theorem writeWithFlag (r : Reg) (b : Byte) (flag : Bool) : (s.writeWithFlag r b flag).Inv :=
  (h.writeV r b).writeV _ _

theorem sampleRnd : s.sampleRnd.2.Inv := { h with }

theorem setDisplay (fb : Framebuffer) (b : Bool) : State.Inv { s with fb := fb, df := b } := { h with }

theorem setTimers (b c : Byte) : State.Inv { s with dt := b, st := c } := { h with }

theorem loadRegs (k : Nat) : (s.loadRegs k).Inv := by
  induction k with
  | zero => exact h
  | succ k ih => exact ih.writeV _ _

theorem memWrite (a : Nat) (b : Byte) : (s.memWrite a b).Inv :=
  { h with memory := s.wf_memWrite a b h.memory }

omit h in
theorem memWriteList (h : s.Inv) (a : Nat) (bs : List Byte) : (s.memWriteList a bs).Inv := by
  induction bs generalizing s a with
  | nil => exact h
  | cons b bs ih => exact ih (h.memWrite a b) (a + 1)

/-- A push keeps the new entry inside 12 bits when it is the PC. -/
theorem push (hsp : s.sp.val < 16) {p : Fin 17} (hp : p.val = s.sp.val + 1) :
    State.Inv { s with stack := s.stack.set s.sp.val s.pc hsp, sp := p } where
  memory := h.memory
  pc := h.pc
  i := h.i
  fpc := h.fpc
  live k hk hlive := by
    rw [Vector.getElem_set]
    split
    · exact h.pc
    · exact h.live k hk (by simp only [hp] at hlive; omega)
  cause := h.cause
  record := h.record

/-- A pop leaves fewer entries live. -/
theorem pop {p : Fin 17} (hp : p.val ≤ s.sp.val) : State.Inv { s with sp := p } :=
  { h with live := fun k hk hlive => h.live k hk (Nat.lt_of_lt_of_le hlive hp) }

/-- Fault entry sets HALT together with a cause, and FPC to the PC (R278). -/
theorem raise {cause : FaultCause} (hc : cause ≠ .none) (op : Word) : (s.raise cause op).Inv :=
  { h with
    fpc := h.pc
    cause := by simp [hc]
    record := by simp }

theorem endStep : s.endStep.Inv := by
  rw [State.endStep]
  split
  · exact h
  · exact h.setTimers _ _

end State.Inv

/-! ### Every instruction, step and host operation -/

/-- Every instruction keeps the invariant, a chain of operations each of which does. -/
theorem exec_inv {i : Instr} (h : s.Inv) (hx : exec i s = .next t) : t.Inv := by
  cases i with
  | ret =>
    obtain ⟨-, rfl⟩ | ⟨k, hk, p, hsp, hp, rfl⟩ := exec_ret_cases hx
    · exact h.raise (by decide) _
    · exact (h.pop (by omega)).writePc _
  | call nnn =>
    obtain ⟨-, rfl⟩ | ⟨hsp, p, hp, rfl⟩ := exec_call_cases hx
    · exact h.raise (by decide) _
    · exact (h.push hsp hp).writePc _
  | ldVxK x =>
    obtain ⟨-, rfl⟩ | ⟨k, -, rfl⟩ := exec_ldVxK_cases hx
    · exact h
    · exact (h.writeV _ _).advance 2
  | jp nnn | jpV0 nnn =>
    cases hx
    exact h.writePc _
  | seImm x nn | sneImm x nn | seReg x y | sneReg x y | skp x | sknp x =>
    cases hx
    exact h.skipIf _
  | ldImm x nn | addImm x nn | ldReg x y | orReg x y | andReg x y | xorReg x y | ldVxDt x =>
    cases hx
    exact (h.writeV _ _).advance 2
  | addReg x y | sub x y | shr x y | subn x y | shl x y =>
    cases hx
    exact (h.writeWithFlag _ _ _).advance 2
  | ldI nnn | ldF x =>
    cases hx
    exact (h.writeI _).advance 2
  | addI x =>
    cases hx
    exact ((h.writeI _).writeV _ _).advance 2
  | ldB x | stRegs x =>
    cases hx
    exact (h.memWriteList _ _).advance 2
  | ldRegs x =>
    cases hx
    exact (h.loadRegs _).advance 2
  | cls =>
    cases hx
    exact (h.setDisplay _ _).advance 2
  | drw x y n =>
    cases hx
    exact ((h.setDisplay _ _).writeV _ _).advance 2
  | ldDtVx x | ldStVx x =>
    cases hx
    exact (h.setTimers _ _).advance 2
  | rnd x nn =>
    cases hx
    exact (h.sampleRnd.writeV _ _).advance 2

/-- Settles O59: a halted step changes nothing, an illegal opcode is fault entry, and an instruction keeps the
invariant, as the tick after it does. -/
theorem everyStepKeepsTheInvariant : Obligations.EveryStepKeepsTheInvariant := by
  intro s t h hstep
  obtain ⟨-, rfl⟩ | ⟨-, e, -, rfl⟩ | ⟨-, i, u, -, hx, rfl⟩ := step_cases hstep
  · exact h
  · exact h.raise (by decide) _
  · exact (exec_inv h hx).endStep

theorem State.load_inv (h : s.Inv) (rom : List Byte) : (s.load rom).2.Inv := by
  have hreset : s.resetCore.Inv := { State.Inv.reset with }
  rw [State.load]
  split
  · exact h
  · exact hreset.memWriteList _ _

theorem State.setKey_inv (h : s.Inv) (index : Nat) (pressed : Bool) : (s.setKey index pressed).2.Inv := by
  rw [State.setKey]
  split
  · exact h
  · exact { h with }

/-- Settles O60: `load` starts from the reset state and writes memory, `set_key` and `take_draw_flag` write parts that
the invariant does not speak of, and the other operations change nothing. -/
theorem everyHostOperationKeepsTheInvariant : Obligations.EveryHostOperationKeepsTheInvariant := by
  intro op s h
  cases op with
  | load rom => exact State.load_inv h rom
  | setKey index pressed => exact State.setKey_inv h index pressed
  | takeDrawFlag => exact { h with }
  | displaySnapshot | displayWidth | displayHeight | faultStatus | soundActive => exact h

end Sys2Proof.Machine
end

section
/-! SUPPORT. What programs cannot tell: ST, DF and the dead stack entries (10_state.md R26, R29, R34). Two states that
differ there alone are one state with those three parts replaced, and every instruction passes the replacement on. -/

namespace Sys2Proof.Machine

variable {s t : State} {st : Byte} {df : Bool} {w : Vector Word 16}

/-- The state with other values in the parts that no instruction reads. -/
def State.withUnread (s : State) (st : Byte) (df : Bool) (w : Vector Word 16) : State :=
  { s with st := st, df := df, stack := w }

theorem SameToPrograms.eq_withUnread {s' : State} (h : SameToPrograms s s') :
    s' = s.withUnread s'.st s'.df s'.stack := by
  obtain ⟨hmem, hv, hi, hpc, hsp, -, hdt, hkey, hfb, ⟨hhalt, hfcause, hfopcode, hfpc⟩, hrnd⟩ := h
  cases s'
  simp only [State.withUnread, hmem, hv, hi, hpc, hsp, hdt, hkey, hfb, hhalt, hfcause, hfopcode, hfpc, hrnd]

theorem sameToPrograms_withUnread (hw : ∀ k, (h : k < 16) → k < s.sp.val → s.stack[k] = w[k]) :
    SameToPrograms s (s.withUnread st df w) :=
  ⟨rfl, rfl, rfl, rfl, rfl, hw, rfl, rfl, rfl, ⟨rfl, rfl, rfl, rfl⟩, rfl⟩

theorem State.memWriteList_withUnread (s : State) (a : Nat) (bs : List Byte) :
    (s.withUnread st df w).memWriteList a bs = (s.memWriteList a bs).withUnread st df w := by
  induction bs generalizing s a with
  | nil => rfl
  | cons b bs ih => exact ih (s.memWrite a b) (a + 1)

theorem State.loadRegs_withUnread (s : State) (k : Nat) :
    (s.withUnread st df w).loadRegs k = (s.loadRegs k).withUnread st df w := by
  induction k with
  | zero => rfl
  | succ k ih =>
    rw [State.loadRegs, ih]
    rfl

/-- An instruction other than 00EE and 2nnn does the same whatever the unread parts hold, passes the stack on, and
leaves ST and DF as they are or writes them. -/
theorem exec_withUnread {i : Instr} (hx : exec i s = .next t) (hstack : .stack ∉ mayWrite i)
    (hsp : .sp ∉ mayWrite i) : ∃ st' df', exec i (s.withUnread st df w) = .next (t.withUnread st' df' w) := by
  cases i with
  | ret => exact absurd (by simp [mayWrite]) hsp
  | call nnn => exact absurd (by simp [mayWrite]) hstack
  | ldVxK x =>
    obtain ⟨hk, rfl⟩ | ⟨k, hk, rfl⟩ := exec_ldVxK_cases hx
    · exact ⟨st, df, exec_ldVxK_of_leastKey_eq_none hk⟩
    · exact ⟨st, df, exec_ldVxK_of_leastKey_eq_some hk⟩
  | cls | drw x y n =>
    cases hx
    exact ⟨st, true, rfl⟩
  | ldStVx x =>
    cases hx
    exact ⟨s.readV x, df, rfl⟩
  | ldB x | stRegs x =>
    cases hx
    exact ⟨st, df, congrArg (fun u => Host.Outcome.next (State.advance u 2)) (s.memWriteList_withUnread _ _)⟩
  | ldRegs x =>
    cases hx
    exact ⟨st, df, congrArg (fun u => Host.Outcome.next (State.advance u 2)) (s.loadRegs_withUnread _)⟩
  | _ =>
    cases hx
    exact ⟨st, df, rfl⟩

namespace SameToPrograms

variable {s' t' : State} (h : SameToPrograms s s')
include h

theorem fetch : s.fetch = s'.fetch := by
  simp only [State.fetch, State.memRead_congr h.mem, h.pc]

theorem raise (cause : FaultCause) (op : Word) : SameToPrograms (s.raise cause op) (s'.raise cause op) :=
  { h with record := ⟨rfl, rfl, rfl, h.pc⟩ }

theorem endStep : SameToPrograms s.endStep s'.endStep := by
  rw [State.endStep, State.endStep, ← h.record.1]
  split
  · exact h
  · exact { h with dt := congrArg countDown h.dt }

/-- Popped states agree: the popped entry was live, and one fewer is live after it. -/
theorem exec_ret (hx : exec .ret s = .next t) (hx' : exec .ret s' = .next t') : SameToPrograms t t' := by
  have hsp := congrArg Fin.val h.sp
  obtain ⟨h0, rfl⟩ | ⟨k, hk, p, hsk, hp, rfl⟩ := exec_ret_cases hx <;>
    obtain ⟨h0', rfl⟩ | ⟨k', hk', p', hsk', hp', rfl⟩ := exec_ret_cases hx'
  · exact h.raise _ _
  · omega
  · omega
  · obtain rfl : k = k' := by omega
    obtain rfl : p = p' := Fin.ext (by omega)
    exact
      { h with
        pc := by rw [State.writePc, State.writePc, h.live k hk (by omega)]
        sp := rfl
        live := fun j hj hlive => h.live j hj (by simp only [State.writePc_sp] at hlive; omega) }

/-- Pushed states agree: both push the same PC at the same slot, which becomes live. -/
theorem exec_call {nnn : Addr} (hx : exec (.call nnn) s = .next t) (hx' : exec (.call nnn) s' = .next t') :
    SameToPrograms t t' := by
  have hsp := congrArg Fin.val h.sp
  obtain ⟨h16, rfl⟩ | ⟨hlt, p, hp, rfl⟩ := exec_call_cases hx <;>
    obtain ⟨h16', rfl⟩ | ⟨hlt', p', hp', rfl⟩ := exec_call_cases hx'
  · exact h.raise _ _
  · omega
  · omega
  · obtain rfl : p = p' := Fin.ext (by omega)
    exact
      { h with
        pc := rfl
        sp := rfl
        live := fun j hj hlive => by
          simp only [State.writePc_sp] at hlive
          simp only [State.writePc_stack, Vector.getElem_set, ← hsp, h.pc]
          split
          · rfl
          · exact h.live j hj (by omega) }

/-- An instruction that writes neither the stack nor SP answers states that agree: the live entries are as before. -/
theorem exec_next_of_stack_frame {i : Instr} (hx : exec i s = .next t) (hstack : .stack ∉ mayWrite i)
    (hsp : .sp ∉ mayWrite i) : ∃ t', exec i s' = .next t' ∧ SameToPrograms t t' := by
  have f := exec_frame hx
  obtain ⟨st', df', hx'⟩ := exec_withUnread (st := s'.st) (df := s'.df) (w := s'.stack) hx hstack hsp
  rw [← h.eq_withUnread] at hx'
  refine ⟨_, hx', sameToPrograms_withUnread ?_⟩
  rw [f.stack hstack, f.sp hsp]
  exact h.live

/-- Every instruction answers states that agree from states that agree; 00EE and 2nnn are the two that move SP. -/
theorem exec_next {i : Instr} (hx : exec i s = .next t) : ∃ t', exec i s' = .next t' ∧ SameToPrograms t t' := by
  cases i with
  | ret =>
    obtain ⟨t', hx'⟩ := exec_answers_next .ret s'
    exact ⟨t', hx', h.exec_ret hx hx'⟩
  | call nnn =>
    obtain ⟨t', hx'⟩ := exec_answers_next (.call nnn) s'
    exact ⟨t', hx', h.exec_call hx hx'⟩
  | _ => exact h.exec_next_of_stack_frame hx (by simp [mayWrite]) (by simp [mayWrite])

end SameToPrograms

/-- Settles O48: two states that agree are both halted, or fetch the same opcode; an instruction keeps them in agreement
(`SameToPrograms.exec_next`), and so do fault entry and the tick. -/
theorem programsCannotTellStDfOrDeadEntries : Obligations.ProgramsCannotTellStDfOrDeadEntries := by
  intro s s' t h hstep
  obtain ⟨hhalt, rfl⟩ | ⟨hhalt, e, hd, rfl⟩ | ⟨hhalt, i, u, hd, hx, rfl⟩ := step_cases hstep <;>
    rw [h.record.1] at hhalt
  · exact ⟨s', step_of_halt_eq_true hhalt, h⟩
  · rw [h.fetch] at hd ⊢
    exact ⟨_, step_of_decode_eq_error hhalt hd, h.raise _ _⟩
  · rw [h.fetch] at hd
    obtain ⟨u', hx', hu⟩ := h.exec_next hx
    exact ⟨_, step_of_exec_eq_next hhalt hd hx', hu.endStep⟩

end Sys2Proof.Machine
end

section
/-! SUPPORT. The bytes a fetch reads (20_memory.md R63), bit by bit and at any address PC is congruent to, and the bytes
Fx55 leaves in memory (43_index_memory.md R194). -/

namespace Sys2Proof.Machine

variable {s t : State} {x : Reg}

/-- The memory port reads the same byte at addresses that are equal modulo 4096 (R62). -/
theorem State.memRead_congr_mod {a c : Nat} (h : a % 4096 = c % 4096) : s.memRead a = s.memRead c := by
  rw [← s.memRead_mod a, h, s.memRead_mod]

/-- Settles O9: the byte at PC is the high half of the fetched word, and the port reduces PC + 1 modulo 4096. -/
theorem fetchIsBigEndian : Obligations.FetchIsBigEndian := by
  intro s k hk
  rw [s.memRead_mod, State.fetch, BitVec.getLsbD_append, BitVec.getLsbD_append]
  constructor
  · rw [if_neg (by omega), Nat.add_sub_cancel]
  · rw [if_pos hk]

/-- A fetch reads the two bytes from any address that PC is equal to modulo 4096. -/
theorem State.fetch_of_pc_mod {a : Nat} (h : s.pc.toNat % 4096 = a % 4096) :
    s.fetch = s.memRead a ++ s.memRead (a + 1) := by
  rw [State.fetch, State.memRead_congr_mod h,
    State.memRead_congr_mod (show (s.pc.toNat + 1) % 4096 = (a + 1) % 4096 by omega)]

/-- Fx55 leaves each register up to V[x] at its own offset from I: at most 16 bytes, so none overwrites another even
where the block wraps (D1, log 1). -/
theorem memRead_of_exec_stRegs {r : Reg} (h : exec (.stRegs x) s = .next t) (hr : r.toNat ≤ x.toNat) :
    t.memRead (s.i.toNat + r.toNat) = s.readV r := by
  cases h
  have hlen := s.regsUpTo_length x
  have hx := x.isLt
  have hk : r.toNat < (s.regsUpTo x).length := by omega
  rw [State.memRead_advance, State.indexAddr, Nat.add_zero, State.memRead_memWriteList_at _ _ _ _ hk (by omega),
    State.regsUpTo_get]

/-- Settles O35: the fetch reads from I + q (`State.fetch_of_pc_mod`), where Fx55 has left V[q] and, next to it, V[r]
(`memRead_of_exec_stRegs`). -/
theorem storedBytesAreFetched : Obligations.StoredBytesAreFetched := by
  intro s t x q r h hr hqr hpc
  have hq : q.toNat ≤ x.toNat := by omega
  rw [State.fetch_of_pc_mod hpc, Nat.add_assoc, hqr, memRead_of_exec_stRegs h hq, memRead_of_exec_stRegs h hr]

end Sys2Proof.Machine
end

section
/-! SUPPORT. The opcode map as a function of the opcode (30_encoding.md R94, R95): two rows never share an opcode, so
`decode` answers a row's instruction exactly when the opcode selects that row. -/

namespace Sys2Proof

variable {op : Word} {r : OpcodeRow}

/-- Two rows are the same where their fixed digits agree on the digits both fix. -/
theorem opcodeMap_eq_of_bits_agree :
    ∀ r ∈ opcodeMap, ∀ q ∈ opcodeMap, r.bits &&& q.mask = q.bits &&& r.mask → r = q := by
  decide

/-- Settles O1: the opcode's digits that both rows fix are the same, whichever row they are read through. -/
theorem opcodeRowsAreMutuallyExclusive : Obligations.OpcodeRowsAreMutuallyExclusive := by
  intro op r hr q hq hopr hopq
  refine opcodeMap_eq_of_bits_agree r hr q hq ?_
  rw [← hopr, ← hopq, BitVec.and_assoc, BitVec.and_assoc, BitVec.and_comm q.mask]

@[simp] theorem OpcodeRow.selects_iff : r.selects op = true ↔ op &&& r.mask = r.bits := beq_iff_eq

/-- The first row that fits is the only one that does. -/
theorem find?_selects_eq_some_iff :
    opcodeMap.find? (fun r => r.selects op) = some r ↔ r ∈ opcodeMap ∧ op &&& r.mask = r.bits := by
  constructor
  · intro h
    have hop := List.find?_some h
    exact ⟨List.mem_of_find?_eq_some h, OpcodeRow.selects_iff.1 hop⟩
  · rintro ⟨hr, hop⟩
    cases h : opcodeMap.find? (fun r => r.selects op) with
    | none => exact absurd (OpcodeRow.selects_iff.2 hop) (List.find?_eq_none.1 h r hr)
    | some q =>
      have hq := List.find?_some h
      rw [opcodeRowsAreMutuallyExclusive op q (List.mem_of_find?_eq_some h) r hr (OpcodeRow.selects_iff.1 hq) hop]

theorem decode_of_find?_eq_some (h : opcodeMap.find? (fun r => r.selects op) = some r) :
    decode op = .ok (r.mnemonic.build (opFields op)) := by
  rw [decode, h]

theorem decode_of_find?_eq_none (h : opcodeMap.find? (fun r => r.selects op) = none) :
    decode op = .error (.illegal op) := by
  rw [decode, h]

theorem decode_of_selects (hr : r ∈ opcodeMap) (hop : op &&& r.mask = r.bits) :
    decode op = .ok (r.mnemonic.build (opFields op)) :=
  decode_of_find?_eq_some (find?_selects_eq_some_iff.2 ⟨hr, hop⟩)

theorem decode_eq_ok_iff {i : Instr} : decode op = .ok i ↔
    ∃ r ∈ opcodeMap, op &&& r.mask = r.bits ∧ i = r.mnemonic.build (opFields op) := by
  constructor
  · intro h
    cases hf : opcodeMap.find? (fun r => r.selects op) with
    | none => rw [decode_of_find?_eq_none hf] at h; cases h
    | some r =>
      obtain ⟨hr, hop⟩ := find?_selects_eq_some_iff.1 hf
      rw [decode_of_find?_eq_some hf] at h
      cases h
      exact ⟨r, hr, hop, rfl⟩
  · rintro ⟨r, hr, hop, rfl⟩
    exact decode_of_selects hr hop

theorem decode_eq_illegal_iff :
    decode op = .error (.illegal op) ↔ ∀ r ∈ opcodeMap, op &&& r.mask ≠ r.bits := by
  constructor
  · intro h r hr hop
    rw [decode_of_selects hr hop] at h
    cases h
  · intro h
    exact decode_of_find?_eq_none (List.find?_eq_none.2 fun r hr hop => h r hr (OpcodeRow.selects_iff.1 hop))

/-- Settles O2: the inversion of `decode` in its two outcomes. -/
theorem decodeFollowsTheOpcodeMap : Obligations.DecodeFollowsTheOpcodeMap :=
  ⟨fun _ _ => decode_eq_ok_iff, fun _ => decode_eq_illegal_iff⟩

/-- Settles O6: twelve closed words, each looked up in the map. -/
theorem sampleWordsDecodeAsTheSpecSays : Obligations.SampleWordsDecodeAsTheSpecSays := by
  unfold Obligations.SampleWordsDecodeAsTheSpecSays
  decide

end Sys2Proof
end

section
/-! SUPPORT. Decode and encode agree (30_encoding.md R94, R95, R100). A word is the digits its format fixes and the
operands in their fields; the first are the row's `match`, the second are what `decode` reads and `encode` writes. -/

namespace Sys2Proof

/-! ### The encoding of every instruction lies in its own row -/

open Laws.EncodingInRow in
/-- The laws of Laws/PerInstr.lean, as one statement. -/
theorem encodingInRow : ∀ i : Instr, Laws.EncodingInRow.Statement i
  | .cls => cls
  | .ret => ret
  | .jp k => jp k
  | .call k => call k
  | .seImm x k => seImm x k
  | .sneImm x k => sneImm x k
  | .seReg x y => seReg x y
  | .ldImm x k => ldImm x k
  | .addImm x k => addImm x k
  | .ldReg x y => ldReg x y
  | .orReg x y => orReg x y
  | .andReg x y => andReg x y
  | .xorReg x y => xorReg x y
  | .addReg x y => addReg x y
  | .sub x y => sub x y
  | .shr x y => shr x y
  | .subn x y => subn x y
  | .shl x y => shl x y
  | .sneReg x y => sneReg x y
  | .ldI k => ldI k
  | .jpV0 k => jpV0 k
  | .rnd x k => rnd x k
  | .drw x y n => drw x y n
  | .skp x => skp x
  | .sknp x => sknp x
  | .ldVxDt x => ldVxDt x
  | .ldVxK x => ldVxK x
  | .ldDtVx x => ldDtVx x
  | .ldStVx x => ldStVx x
  | .addI x => addI x
  | .ldF x => ldF x
  | .ldB x => ldB x
  | .stRegs x => stRegs x
  | .ldRegs x => ldRegs x

theorem rowOf_mnemonic : ∀ r ∈ opcodeMap, rowOf r.mnemonic = some r := by decide

@[simp] theorem Mnemonic.mnemonic_build (m : Mnemonic) (f : Fields) : (m.build f).mnemonic = m := by
  cases m <;> rfl

/-- The opcode of an instruction built on a row selects that row. -/
theorem encode_build_and_mask {r : OpcodeRow} (hr : r ∈ opcodeMap) (f : Fields) :
    encode (r.mnemonic.build f) &&& r.mask = r.bits := by
  obtain ⟨q, hq, henc⟩ := encodingInRow (r.mnemonic.build f)
  rw [Mnemonic.mnemonic_build, rowOf_mnemonic r hr, Option.some.injEq] at hq
  rwa [← hq] at henc

/-! ### The fields of a word written digit by digit -/

variable (d x y n : BitVec 4) (k : Byte) (a : Addr)

@[simp] theorem opNNN_append : opNNN (d ++ a) = a := BitVec.extractLsb'_append_eq_right

@[simp] theorem opNN_append : opNN (d ++ x ++ k) = k := BitVec.extractLsb'_append_eq_right

@[simp] theorem opN_append : opN (d ++ x ++ y ++ n) = n := BitVec.extractLsb'_append_eq_right

@[simp] theorem opX_append_xnn : opX (d ++ x ++ k) = x := by
  rw [opX, BitVec.extractLsb'_append_eq_of_le (by decide)]
  exact BitVec.extractLsb'_append_eq_right

@[simp] theorem opY_append : opY (d ++ x ++ y ++ n) = y := by
  rw [opY, BitVec.extractLsb'_append_eq_of_le (by decide)]
  exact BitVec.extractLsb'_append_eq_right

@[simp] theorem opX_append_xyn : opX (d ++ x ++ y ++ n) = x := by
  rw [opX, BitVec.extractLsb'_append_eq_of_le (by decide), BitVec.extractLsb'_append_eq_of_le (by decide)]
  exact BitVec.extractLsb'_append_eq_right

/-- The fields read from an opcode are the operands that were encoded: each case is the digits of one pattern, read back
by the lemmas above. -/
theorem build_opFields_encode (i : Instr) : i.mnemonic.build (opFields (encode i)) = i := by
  cases i <;> simp [Mnemonic.build, Instr.mnemonic, opFields, encode]

theorem encode_selects_row (i : Instr) :
    ∃ r ∈ opcodeMap, r.mnemonic = i.mnemonic ∧ encode i &&& r.mask = r.bits := by
  obtain ⟨r, hr, henc⟩ := encodingInRow i
  have hm := List.find?_some hr
  exact ⟨r, List.mem_of_find?_eq_some hr, beq_iff_eq.1 hm, henc⟩

/-- Settles O3: the encoding selects the instruction's row, and its fields are the operands. -/
theorem decodeOfEncodeIsTheInstruction : Obligations.DecodeOfEncodeIsTheInstruction := by
  intro i
  obtain ⟨r, hr, hm, henc⟩ := encode_selects_row i
  rw [decode_of_selects hr henc, hm, build_opFields_encode]

/-! ### A word is its fixed digits and its operands -/

/-- The digits a format fixes, as a mask (R92); the masks of the map are these (`opcodeMap_mask_eq`). -/
def Format.mask : Format → Word
  | .fixed => 0xFFFF#16
  | .nnn | .xnn | .xyn => 0xF000#16
  | .xy => 0xF00F#16
  | .x => 0xF0FF#16

/-- What a format's operands add to an opcode, each in its field (R91, R92). -/
def Format.place (F : Format) (f : Fields) : Nat :=
  match F with
  | .fixed => 0
  | .nnn => f.nnn.toNat
  | .xnn => f.x.toNat * 256 + f.nn.toNat
  | .xy => f.x.toNat * 256 + f.y.toNat * 16
  | .xyn => f.x.toNat * 256 + f.y.toNat * 16 + f.n.toNat
  | .x => f.x.toNat * 256

theorem opcodeMap_mask_eq : ∀ r ∈ opcodeMap, r.mask = r.mnemonic.format.mask := by decide

theorem toNat_append_eq_add {v w : Nat} (a : BitVec v) (b : BitVec w) :
    (a ++ b).toNat = a.toNat * 2 ^ w + b.toNat := by
  rw [BitVec.toNat_append, ← Nat.shiftLeft_add_eq_or_of_lt b.isLt, Nat.shiftLeft_eq]

theorem toNat_nnn : (d ++ a : Word).toNat = d.toNat * 4096 + a.toNat := toNat_append_eq_add d a

theorem toNat_xnn : (d ++ x ++ k : Word).toNat = d.toNat * 4096 + x.toNat * 256 + k.toNat :=
  calc
    _ = (d ++ x : BitVec 8).toNat * 2 ^ 8 + k.toNat := toNat_append_eq_add (d ++ x) k
    _ = (d.toNat * 2 ^ 4 + x.toNat) * 2 ^ 8 + k.toNat := by rw [← toNat_append_eq_add d x]
    _ = _ := by omega

theorem toNat_xyn :
    (d ++ x ++ y ++ n : Word).toNat = d.toNat * 4096 + x.toNat * 256 + y.toNat * 16 + n.toNat :=
  calc
    _ = (d ++ x ++ y : BitVec 12).toNat * 2 ^ 4 + n.toNat := toNat_append_eq_add (d ++ x ++ y) n
    _ = ((d ++ x : BitVec 8).toNat * 2 ^ 4 + y.toNat) * 2 ^ 4 + n.toNat := by
      rw [← toNat_append_eq_add (d ++ x) y]
    _ = ((d.toNat * 2 ^ 4 + x.toNat) * 2 ^ 4 + y.toNat) * 2 ^ 4 + n.toNat := by rw [← toNat_append_eq_add d x]
    _ = _ := by omega

variable (w : Word)

theorem exists_eq_digit_nnn : ∃ (d : Nibble) (a : Addr), w = d ++ a := by
  refine ⟨w.extractLsb' 12 4, opNNN w, BitVec.eq_of_toNat_eq ?_⟩
  simp only [toNat_nnn, opNNN, BitVec.extractLsb'_toNat, Nat.shiftRight_eq_div_pow]
  omega

theorem exists_eq_digit_xnn : ∃ (d : Nibble) (x : Reg) (k : Byte), w = d ++ x ++ k := by
  refine ⟨w.extractLsb' 12 4, opX w, opNN w, BitVec.eq_of_toNat_eq ?_⟩
  simp only [toNat_xnn, opX, opNN, BitVec.extractLsb'_toNat, Nat.shiftRight_eq_div_pow]
  omega

theorem exists_eq_digit_xyn : ∃ (d : Nibble) (x y : Reg) (n : Nibble), w = d ++ x ++ y ++ n := by
  refine ⟨w.extractLsb' 12 4, opX w, opY w, opN w, BitVec.eq_of_toNat_eq ?_⟩
  simp only [toNat_xyn, opX, opY, opN, BitVec.extractLsb'_toNat, Nat.shiftRight_eq_div_pow]
  omega

/-- No bit of a word is outside the digits its format fixes and the operands. -/
theorem toNat_eq_mask_add_place (F : Format) :
    w.toNat = (w &&& F.mask).toNat + F.place (opFields w) := by
  cases F with
  | fixed => exact congrArg BitVec.toNat (BitVec.and_allOnes (x := w)).symm
  | nnn =>
    obtain ⟨d, a, rfl⟩ := exists_eq_digit_nnn w
    simp only [Format.mask, mask_nnn, Format.place, opFields, toNat_nnn, opNNN_append, BitVec.toNat_zero, Nat.add_zero]
  | xnn =>
    obtain ⟨d, x, k, rfl⟩ := exists_eq_digit_xnn w
    simp only [Format.mask, mask_xnn, Format.place, opFields, toNat_xnn, opX_append_xnn, opNN_append, BitVec.toNat_zero]
    omega
  | x =>
    obtain ⟨d, x, k, rfl⟩ := exists_eq_digit_xnn w
    simp only [Format.mask, mask_x, Format.place, opFields, toNat_xnn, opX_append_xnn, BitVec.toNat_zero]
    omega
  | xy =>
    obtain ⟨d, x, y, n, rfl⟩ := exists_eq_digit_xyn w
    simp only [Format.mask, mask_xy, Format.place, opFields, toNat_xyn, opX_append_xyn, opY_append, BitVec.toNat_zero]
    omega
  | xyn =>
    obtain ⟨d, x, y, n, rfl⟩ := exists_eq_digit_xyn w
    simp only [Format.mask, mask_xyn, Format.place, opFields, toNat_xyn, opX_append_xyn, opY_append, opN_append,
      BitVec.toNat_zero]
    omega

/-- An instruction determines the operands its format places. -/
theorem place_eq_of_build_eq {m : Mnemonic} {f g : Fields} (h : m.build f = m.build g) :
    m.format.place f = m.format.place g := by
  obtain ⟨_, _, _, _, _⟩ := f
  obtain ⟨_, _, _, _, _⟩ := g
  cases m <;> cases h <;> rfl

/-- The opcode of an instruction is its row's `match` plus each operand in its field. -/
theorem toNat_encode_build {r : OpcodeRow} (hr : r ∈ opcodeMap) (f : Fields) :
    (encode (r.mnemonic.build f)).toNat = r.bits.toNat + r.mnemonic.format.place f := by
  have hfields := build_opFields_encode (r.mnemonic.build f)
  rw [Mnemonic.mnemonic_build] at hfields
  rw [toNat_eq_mask_add_place _ r.mnemonic.format, ← opcodeMap_mask_eq r hr, encode_build_and_mask hr,
    place_eq_of_build_eq hfields]

/-- Settles O4: the row's `match` is what the opcode's mask leaves, so with the operands added it is the opcode. -/
theorem encodeOfDecodeIsTheOpcode : Obligations.EncodeOfDecodeIsTheOpcode := by
  intro op i h
  obtain ⟨r, hr, hop, rfl⟩ := decode_eq_ok_iff.1 h
  apply BitVec.eq_of_toNat_eq
  rw [toNat_encode_build hr, ← hop, opcodeMap_mask_eq r hr, ← toNat_eq_mask_add_place]

end Sys2Proof
end

section
/-! SUPPORT. Assembling (30_encoding.md R99, R100): a form whose operands fit is its row's instruction with the operands
in their fields, any other form is none. -/

namespace Sys2Proof

variable {m : Mnemonic} {F : Format} {os : List Nat} {r : OpcodeRow}

/-- A form with as many operands as its format has is taken as written; the omission R99 allows is one operand short. -/
theorem fullOperands_of_length (h : os.length = m.format.widths.length) : AsmForm.fullOperands ⟨m, os⟩ = os := by
  unfold AsmForm.fullOperands
  split
  · rename_i hm hos; subst hm hos; cases h
  · rename_i hm hos; subst hm hos; cases h
  · rfl

theorem operandsFit_length : ∀ {ws os : List Nat}, operandsFit ws os = true → os.length = ws.length
  | [], [], _ => rfl
  | w :: ws, o :: os, h => by
    rw [operandsFit, Bool.and_eq_true] at h
    rw [List.length_cons, List.length_cons, operandsFit_length h.2]

/-- Operands that fit are added to the row's `match`, each in its field. -/
theorem assemble_of_fit {v : Nat} (hr : r ∈ opcodeMap) (hF : r.mnemonic.format = F)
    (hfit : operandsFit F.widths os = true) (hv : r.bits.toNat + F.place (F.fields os) = v) :
    ∃ i, AsmForm.assemble ⟨r.mnemonic, os⟩ = some i ∧ (encode i).toNat = v := by
  subst hF hv
  refine ⟨_, ?_, toNat_encode_build hr _⟩
  rw [AsmForm.assemble, AsmForm.wellFormed, fullOperands_of_length (operandsFit_length hfit), if_pos hfit]

/-- An operand that does not fit makes the whole form an error. -/
theorem assemble_of_not_fit (hF : m.format = F) (hlen : os.length = F.widths.length)
    (hfit : operandsFit F.widths os = false) : AsmForm.assemble ⟨m, os⟩ = none := by
  subst hF
  rw [AsmForm.assemble, AsmForm.wellFormed, fullOperands_of_length hlen, hfit, if_neg Bool.false_ne_true]

/-- Settles O7: format by format, the operands that fit are added in place (`assemble_of_fit`), and one that does not
fit makes the form an error (`assemble_of_not_fit`). -/
theorem assemblingPlacesOperandsOrFails : Obligations.AssemblingPlacesOperandsOrFails := by
  intro r hr
  refine ⟨fun hF => ?fixed, fun hF a => ⟨fun h => ?nnn, fun h => ?_⟩, fun hF x k => ⟨fun h => ?xnn, fun h => ?_⟩,
    fun hF x y => ⟨fun h => ?xy, fun h => ?_⟩, fun hF x y n => ⟨fun h => ?xyn, fun h => ?_⟩,
    fun hF x => ⟨fun h => ?x, fun h => ?_⟩⟩
  case fixed =>
    obtain ⟨i, hi, henc⟩ := assemble_of_fit (os := []) hr hF rfl rfl
    exact ⟨i, hi, BitVec.eq_of_toNat_eq henc⟩
  case nnn | xnn | xy | xyn | x =>
    refine assemble_of_fit hr hF (by simpa [Format.widths, operandsFit] using h) ?_
    simp only [Format.place, Format.fields, BitVec.toNat_ofNat]
    omega
  all_goals
    refine assemble_of_not_fit hF rfl ?_
    simp only [Format.widths, operandsFit, Bool.and_true, Bool.and_eq_false_iff, decide_eq_false_iff_not]
    omega

end Sys2Proof
end

section
/-! SUPPORT. The illegal opcodes family by family (30_encoding.md R96): what selecting a row of each mask says of the
opcode's digits. -/

namespace Sys2Proof

variable {op b : Word}

theorem append_zero_xnn_inj {d e : BitVec 4} {k l : Byte} :
    (d ++ 0#4 ++ k : Word) = (e ++ 0#4 ++ l : Word) ↔ d = e ∧ k = l := by
  rw [← BitVec.toNat_inj, toNat_xnn, toNat_xnn, ← BitVec.toNat_inj, ← BitVec.toNat_inj]
  omega

theorem append_zero_xyn_inj {d e n m : BitVec 4} :
    (d ++ 0#4 ++ 0#4 ++ n : Word) = (e ++ 0#4 ++ 0#4 ++ m : Word) ↔ d = e ∧ n = m := by
  rw [← BitVec.toNat_inj, toNat_xyn, toNat_xyn, ← BitVec.toNat_inj, ← BitVec.toNat_inj]
  omega

theorem family_append_xnn (d x : BitVec 4) (k : Byte) : (d ++ x ++ k : Word).extractLsb' 12 4 = d := by
  rw [BitVec.extractLsb'_append_eq_of_le (by decide)]
  exact BitVec.extractLsb'_append_eq_left

theorem family_append_xyn (d x y n : BitVec 4) : (d ++ x ++ y ++ n : Word).extractLsb' 12 4 = d := by
  rw [BitVec.extractLsb'_append_eq_of_le (by decide), BitVec.extractLsb'_append_eq_of_le (by decide)]
  exact BitVec.extractLsb'_append_eq_left

/-! `hb` says that the row's `match` has no digit outside its mask. -/

theorem and_F000_eq_iff (hb : b &&& 0xF000#16 = b) :
    op &&& 0xF000#16 = b ↔ op.extractLsb' 12 4 = b.extractLsb' 12 4 := by
  obtain ⟨d, x, rfl⟩ := exists_eq_digit_nnn op
  obtain ⟨e, y, rfl⟩ := exists_eq_digit_nnn b
  rw [← hb, mask_nnn, mask_nnn, BitVec.append_left_inj, BitVec.extractLsb'_append_eq_left,
    BitVec.extractLsb'_append_eq_left]

theorem and_F0FF_eq_iff (hb : b &&& 0xF0FF#16 = b) :
    op &&& 0xF0FF#16 = b ↔
      op.extractLsb' 12 4 = b.extractLsb' 12 4 ∧ op.extractLsb' 0 8 = b.extractLsb' 0 8 := by
  obtain ⟨d, x, k, rfl⟩ := exists_eq_digit_xnn op
  obtain ⟨e, y, l, rfl⟩ := exists_eq_digit_xnn b
  rw [← hb, mask_x, mask_x, append_zero_xnn_inj, family_append_xnn, family_append_xnn,
    BitVec.extractLsb'_append_eq_right, BitVec.extractLsb'_append_eq_right]

theorem and_F00F_eq_iff (hb : b &&& 0xF00F#16 = b) :
    op &&& 0xF00F#16 = b ↔
      op.extractLsb' 12 4 = b.extractLsb' 12 4 ∧ op.extractLsb' 0 4 = b.extractLsb' 0 4 := by
  obtain ⟨d, x, y, n, rfl⟩ := exists_eq_digit_xyn op
  obtain ⟨e, z, w, m, rfl⟩ := exists_eq_digit_xyn b
  rw [← hb, mask_xy, mask_xy, append_zero_xyn_inj, family_append_xyn, family_append_xyn,
    BitVec.extractLsb'_append_eq_right, BitVec.extractLsb'_append_eq_right]

/-- The families of R96: those where every opcode is legal, and the six others. -/
theorem family_cases (d : Nibble) :
    d ∈ [0x1#4, 0x2#4, 0x3#4, 0x4#4, 0x6#4, 0x7#4, 0xA#4, 0xB#4, 0xC#4, 0xD#4] ∨
      d = 0x0#4 ∨ d = 0x5#4 ∨ d = 0x8#4 ∨ d = 0x9#4 ∨ d = 0xE#4 ∨ d = 0xF#4 := by
  revert d; decide

/-- In family 8 the low digits of no row are the seven of R96. -/
theorem mem_illegalAluDigits_iff (n : Nibble) :
    n ∈ [0x8#4, 0x9#4, 0xA#4, 0xB#4, 0xC#4, 0xD#4, 0xF#4] ↔
      n ∉ [0x0#4, 0x1#4, 0x2#4, 0x3#4, 0x4#4, 0x5#4, 0x6#4, 0x7#4, 0xE#4] := by
  revert n; decide

/-- Settles O5: once each row is read as digits, only the rows of the opcode's own family are left to rule out. In
family 0 these are the two exact rows, which no opcode of another family equals (`hcls`, `hret`). -/
theorem illegalOpcodesByFamily : Obligations.IllegalOpcodesByFamily := by
  intro op
  have hall : op &&& 0xFFFF#16 = op := BitVec.and_allOnes
  have hcls : op.extractLsb' 12 4 ≠ 0x0#4 → op ≠ 0x00E0#16 := by rintro h rfl; exact h rfl
  have hret : op.extractLsb' 12 4 ≠ 0x0#4 → op ≠ 0x00EE#16 := by rintro h rfl; exact h rfl
  rw [decode_eq_illegal_iff, mem_illegalAluDigits_iff]
  simp (disch := decide) only [opcodeMap, List.forall_mem_append, List.forall_mem_cons, BitVec.ofNat_eq_ofNat, ne_eq,
    hall, and_F000_eq_iff, and_F00F_eq_iff, and_F0FF_eq_iff, BitVec.reduceExtractLsb']
  generalize op.extractLsb' 12 4 = d at *
  obtain hd | rfl | rfl | rfl | rfl | rfl | rfl := family_cases d
  case inl => fin_cases hd <;> simp
  case inr.inl => simp
  all_goals simp [hcls, hret]

end Sys2Proof
end

section
/-! SUPPORT. The step cycle (40_step_cycle.md R120 to R131): the end of a step as a tick or nothing, the instructions
that can fault or write DT, PC by the class of the instruction, and the two kinds of step that change nothing. -/

namespace Sys2Proof.Machine

variable {s t u : State} {i : Instr}

/-! ### The end of a step -/

theorem State.endStep_of_halt_eq_true (h : u.halt = true) : u.endStep = u := if_pos h

theorem State.endStep_of_halt_eq_false (h : u.halt = false) : u.endStep = u.tick := if_neg (by simp [h])

@[simp] theorem State.endStep_halt (u : State) : u.endStep.halt = u.halt := by
  rw [State.endStep]
  split <;> rfl

theorem Frame.tick {c : List Part} (f : Frame c s t) (hdt : .dt ∈ c) (hst : .st ∈ c) : Frame c s t.tick :=
  { f with dt := fun n => absurd hdt n, st := fun n => absurd hst n }

/-- A completed step is the instruction and then the tick (R125). -/
theorem step_of_exec_completes (hs : s.halt = false) (hd : decode s.fetch = .ok i) (hx : exec i s = .next u)
    (hu : u.halt = false) : step s = .next u.tick := by
  rw [step_of_exec_eq_next hs hd hx, State.endStep_of_halt_eq_false hu]

/-- Settles O8: the port reduces PC + 1 modulo 4096, so the two bytes are the fetched word, and the end of the step is
the tick or nothing by its definition. -/
theorem stepRunsTheDecodedInstruction : Obligations.StepRunsTheDecodedInstruction := by
  rintro s u _ _ i hs rfl rfl hd hx
  rw [s.memRead_mod] at hd
  exact step_of_exec_eq_next hs hd hx

/-! ### Faulting instructions and the timers -/

/-- An instruction that sets HALT has faulted, and fault entry is all it did (R127, R278): only 00EE and 2nnn may write
the record, and both leave it alone where they do not raise. -/
theorem exec_eq_raise_of_halt_eq_true (hs : s.halt = false) (hx : exec i s = .next u) (hu : u.halt = true) :
    ∃ cause op, u = s.raise cause op := by
  have hne : u.halt ≠ s.halt := by simp [hs, hu]
  cases i with
  | ret =>
    obtain ⟨-, rfl⟩ | ⟨k, hk, p, -, -, rfl⟩ := exec_ret_cases hx
    · exact ⟨_, _, rfl⟩
    · exact absurd rfl hne
  | call nnn =>
    obtain ⟨-, rfl⟩ | ⟨hsp, p, -, rfl⟩ := exec_call_cases hx
    · exact ⟨_, _, rfl⟩
    · exact absurd rfl hne
  | _ => exact absurd ((exec_frame hx).record (by simp [mayWrite])).1 hne

/-- Settles O10: a completed step ends in a tick, and fault entry and a halted step leave the timers alone. -/
theorem timersTickInEveryCompletedStep : Obligations.TimersTickInEveryCompletedStep := by
  refine ⟨fun s u i hs hd hx hu => ?completed, fun s u i hs hd hx hu => ?faulting, fun s t op hs hd hstep => ?illegal,
    fun s t hs hstep => ?halted⟩
  case completed =>
    exact ⟨u.tick, step_of_exec_completes hs hd hx hu, countDown_toNat u.dt, countDown_toNat u.st,
      Frame.refl.tick (by decide) (by decide)⟩
  case faulting =>
    have hstep : step s = .next u := by
      rw [step_of_exec_eq_next hs hd hx, State.endStep_of_halt_eq_true hu]
    obtain ⟨cause, op, rfl⟩ := exec_eq_raise_of_halt_eq_true hs hx hu
    exact ⟨hstep, rfl, rfl⟩
  case illegal =>
    rw [step_of_decode_eq_error hs hd] at hstep
    cases hstep
    exact ⟨rfl, rfl⟩
  case halted =>
    rw [step_of_halt_eq_true hs] at hstep
    cases hstep
    exact ⟨rfl, rfl⟩

/-- Fx15 is the one instruction that writes DT (R28). -/
theorem dt_not_mem_mayWrite (h : ∀ x, i ≠ .ldDtVx x) : .dt ∉ mayWrite i := by
  cases i with
  | ldDtVx x => exact absurd rfl (h x)
  | _ => simp [mayWrite]

/-- Settles O40: each step is its instruction and a tick, and DT before the tick is V[x] for Fx15 and the old DT for
every other instruction. -/
theorem delayTimerFallsByOnePerStep : Obligations.DelayTimerFallsByOnePerStep := by
  refine ⟨fun s x hs hd => ?ldVxDt, fun s x hs hd => ?ldDtVx, fun s t i hs hd hi hstep ht => ?other⟩
  case ldVxDt =>
    have hx : exec (.ldVxDt x) s = .next ((s.writeV x s.dt).advance 2) := rfl
    exact ⟨_, step_of_exec_completes hs hd hx hs, by simp, countDown_toNat s.dt⟩
  case ldDtVx =>
    have hx : exec (.ldDtVx x) s = .next (State.advance { s with dt := s.readV x } 2) := rfl
    exact ⟨_, step_of_exec_completes hs hd hx hs, countDown_toNat (s.readV x)⟩
  case other =>
    obtain ⟨u, hx⟩ := exec_answers_next i s
    rw [step_of_exec_eq_next hs hd hx] at hstep
    cases hstep
    rw [State.endStep_halt] at ht
    rw [State.endStep_of_halt_eq_false ht, State.tick_dt, countDown_toNat,
      (exec_frame hx).dt (dt_not_mem_mayWrite hi)]

/-! ### PC by the class of the instruction -/

/-- No key is least exactly when the whole KEY register is zero. -/
theorem State.leastKey_eq_none_iff_key : s.leastKey = none ↔ s.key = 0 := by
  rw [State.leastKey_none]
  constructor
  · intro h
    apply BitVec.eq_of_getLsbD_eq
    intro k hk
    rw [h k hk, BitVec.ofNat_eq_ofNat, BitVec.getLsbD_zero]
  · intro h k _
    rw [h, BitVec.ofNat_eq_ofNat, BitVec.getLsbD_zero]

/-- Settles O46, class by class (R124): an instruction sets PC last, by `advance`, `skipIf` or `writePc`, from a PC that
its other operations have left alone; the three branching instructions have a case each where PC stays. -/
theorem pcFollowsItsClass : Obligations.PcFollowsItsClass := by
  intro i s t h
  cases i with
  | cls | ldImm x nn | addImm x nn | ldReg x y | orReg x y | andReg x y | xorReg x y | addReg x y | sub x y | shr x y
  | subn x y | shl x y | ldI nnn | rnd x nn | drw x y n | ldVxDt x | ldDtVx x | ldStVx x | addI x | ldF x =>
    cases h
    exact State.advance_pc _ 2
  | ldB x | stRegs x =>
    cases h
    rw [State.advance_pc, State.memWriteList_pc, nextPc]
  | ldRegs x =>
    cases h
    rw [State.advance_pc, State.loadRegs_pc, nextPc]
  | seImm x nn | sneImm x nn | seReg x y | sneReg x y =>
    cases h
    simp [nextPc]
  | skp x | sknp x =>
    cases h
    simp [nextPc, State.keyNamed]
  | jp nnn =>
    cases h
    rw [State.writePc_pc, nextPc, Nat.mod_eq_of_lt nnn.isLt]
  | jpV0 nnn =>
    cases h
    exact State.writePc_pc _ _
  | ret =>
    obtain ⟨hsp, rfl⟩ | ⟨k, hk, p, hsp, -, rfl⟩ := exec_ret_cases h
    · rw [nextPc, if_pos hsp, State.raise_pc]
    · rw [nextPc, if_neg (by omega), State.writePc_pc, hsp, Nat.add_sub_cancel]
      simp [hk]
  | call nnn =>
    obtain ⟨hsp, rfl⟩ | ⟨hsp, p, -, rfl⟩ := exec_call_cases h
    · rw [nextPc, if_pos hsp, State.raise_pc]
    · rw [nextPc, if_neg (by omega), State.writePc_pc, Nat.mod_eq_of_lt nnn.isLt]
  | ldVxK x =>
    obtain ⟨hk, rfl⟩ | ⟨k, hk, rfl⟩ := exec_ldVxK_cases h
    · rw [nextPc, if_pos (State.leastKey_eq_none_iff_key.1 hk)]
    · have hkey : s.key ≠ 0 := fun h0 => by simp [State.leastKey_eq_none_iff_key.2 h0] at hk
      rw [nextPc, if_neg hkey, State.advance_pc, State.writeV_pc]

/-! ### Steps that change nothing -/

theorem apply_step_of_step_eq_next (h : step s = .next t) : Move.apply .step s = .next (stepReply t, t) := by
  rw [Move.apply, h]

/-- Settles O13: the step answers its own state, whose record the port reads with HALT = 1. -/
theorem haltedStepChangesNothing : Obligations.HaltedStepChangesNothing := by
  intro s hs
  rw [apply_step_of_step_eq_next (step_of_halt_eq_true hs), stepReply, if_pos hs, State.faultStatus, hs]

/-- A PC that lies in 12 bits is the same after a jump to its low 12 bits. -/
theorem State.writePc_pc_low12 (h : s.pc.toNat ≤ 0x0FFF) : s.writePc (s.pc.setWidth 12).toNat = s := by
  have hpc : BitVec.ofNat 16 ((s.pc.setWidth 12).toNat % Config.memSize) = s.pc := by
    apply BitVec.eq_of_toNat_eq
    rw [toNat_low12, BitVec.toNat_setWidth]
    omega
  rw [State.writePc, hpc]

theorem State.tick_of_timers_eq_zero (hdt : s.dt = 0x00#8) (hst : s.st = 0x00#8) : s.tick = s := by
  rw [State.tick, countDown, countDown, if_pos hdt, if_pos hst]

/-- Settles O49: the jump writes the PC that stands there (R131), and timers at 0 stay there in the tick. -/
theorem quiescentStateIsFixed : Obligations.QuiescentStateIsFixed := by
  rintro s ⟨hs, hd, hpc, hdt, hst⟩
  have hx : exec (.jp (s.pc.setWidth 12)) s = .next s := congrArg Host.Outcome.next (State.writePc_pc_low12 hpc)
  rw [step_of_exec_completes hs hd hx hs, State.tick_of_timers_eq_zero hdt hst]

end Sys2Proof.Machine
end

section
/-! SUPPORT. Control transfer (41_control_flow.md): what 2nnn and 00EE answer on each side of their stack bound, and the
two one after the other. -/

namespace Sys2Proof.Machine

variable {s t u : State} {nnn : Addr}

/-! ### The stack instructions by SP -/

theorem exec_call_of_sp_lt (h : s.sp.val < 16) : ∃ p : Fin 17, p.val = s.sp.val + 1 ∧
    exec (.call nnn) s = .next (State.writePc { s with stack := s.stack.set s.sp.val s.pc h, sp := p } nnn.toNat) := by
  obtain ⟨t, hx⟩ := exec_answers_next (.call nnn) s
  obtain ⟨h16, -⟩ | ⟨_, p, hp, rfl⟩ := exec_call_cases hx
  · omega
  · exact ⟨p, hp, hx⟩

theorem exec_call_of_sp_eq_sixteen (h : s.sp.val = 16) :
    exec (.call nnn) s = .next (s.raise .stackOverflow (encode (.call nnn))) := by
  obtain ⟨t, hx⟩ := exec_answers_next (.call nnn) s
  obtain ⟨-, rfl⟩ | ⟨hlt, -⟩ := exec_call_cases hx
  · exact hx
  · omega

theorem exec_ret_of_sp_eq_succ {k : Nat} (hk : k < 16) (h : s.sp.val = k + 1) : ∃ p : Fin 17, p.val = k ∧
    exec .ret s = .next (State.writePc { s with sp := p } (s.stack[k].toNat + 2)) := by
  obtain ⟨t, hx⟩ := exec_answers_next .ret s
  obtain ⟨h0, -⟩ | ⟨j, hj, p, hsp, hp, rfl⟩ := exec_ret_cases hx
  · omega
  · obtain rfl : j = k := by omega
    exact ⟨p, hp, hx⟩

/-- A return straight after a call pops the entry the call pushed: of the state before both, only that entry and PC
differ. -/
theorem eq_writePc_of_call_of_ret (h : s.sp.val < 16) (hcall : exec (.call nnn) s = .next t)
    (hret : exec .ret t = .next u) :
    u = State.writePc { s with stack := s.stack.set s.sp.val s.pc h } (s.pc.toNat + 2) := by
  obtain ⟨p, hp, hx⟩ := exec_call_of_sp_lt (nnn := nnn) h
  have ht := Host.Outcome.next.inj (hcall.symm.trans hx)
  obtain ⟨q, hq, hx'⟩ := exec_ret_of_sp_eq_succ (s := t) h (by rw [ht]; exact hp)
  obtain rfl : q = s.sp := Fin.ext hq
  rw [Host.Outcome.next.inj (hret.symm.trans hx'), ht]
  simp only [State.writePc_stack, Vector.getElem_set_self]
  rfl

/-! ### The statements -/

/-- Settles O18: the row of top digit 2 is CALL's, and `exec` pushes or raises by `exec_call_of_sp_lt` and
`exec_call_of_sp_eq_sixteen`. -/
theorem callPushesTheCallSite : Obligations.CallPushesTheCallSite := by
  refine ⟨fun op hop => ?decodes, fun s nnn hsp => ?pushes, fun s nnn hsp => ?overflows⟩
  case decodes => exact decode_of_selects (r := ⟨.call, 0xF000, 0x2000⟩) (by decide) hop
  case pushes =>
    obtain ⟨p, hp, hx⟩ := exec_call_of_sp_lt (nnn := nnn) hsp
    refine ⟨_, hx, fun k hk => ?_, hp, ?_, (Frame.refl.setStack _ p).writePc _⟩
    · simp only [State.writePc_stack, Vector.getElem_set, eq_comm]
    · rw [State.writePc_pc, Nat.mod_eq_of_lt nnn.isLt]
  case overflows =>
    exact ⟨_, exec_call_of_sp_eq_sixteen hsp, rfl, rfl, rfl, rfl, hsp, rfl, Frame.refl.raise _ _⟩

/-- Settles O19: each of the four is a conditional skip, which writes PC alone; the two that skip on a difference test
the negated comparison. -/
theorem registerSkipsCompareAllBits : Obligations.RegisterSkipsCompareAllBits := by
  intro s x y nn
  refine ⟨⟨_, rfl, Frame.refl.skipIf _, ?seImm⟩, ⟨_, rfl, Frame.refl.skipIf _, ?sneImm⟩,
    ⟨_, rfl, Frame.refl.skipIf _, ?seReg⟩, ⟨_, rfl, Frame.refl.skipIf _, ?sneReg⟩⟩
  case seImm | seReg => simp only [State.skipIf_pc, beq_iff_eq]
  case sneImm | sneReg => simp only [State.skipIf_pc, bne_iff_ne, ne_eq, ite_not]

/-- Settles O21: the two together write the slot at SP and PC (`eq_writePc_of_call_of_ret`). -/
theorem returnResumesAfterTheCall : Obligations.ReturnResumesAfterTheCall := by
  intro s t u nnn hsp hcall hret
  obtain rfl := eq_writePc_of_call_of_ret hsp hcall hret
  have hframe : Frame [.pc, .stack] s { s with stack := s.stack.set s.sp.val s.pc hsp } :=
    { Frame.refl with stack := fun n => absurd (by simp) n }
  exact ⟨State.writePc_pc _ _, rfl, fun k hk hne => Vector.getElem_set_ne hsp hk hne.symm, hframe.writePc _⟩

/-- Settles O15: SP = k + 1 is not 0, so 00EE pops (`exec_ret_of_sp_eq_succ`). -/
theorem retPopsTheCallSite : Obligations.RetPopsTheCallSite := by
  intro s k hk hsp
  obtain ⟨p, hp, hx⟩ := exec_ret_of_sp_eq_succ hk hsp
  exact ⟨_, hx, hp, State.writePc_pc _ _, (Frame.refl.setSp p).writePc _⟩

/-- Settles O17: the row of top digit 1 is JP's, and a PC written from 12 bits loses none of them. -/
theorem jpSetsPc : Obligations.JpSetsPc := by
  refine ⟨fun op hop => ?decodes, fun s nnn => ⟨_, rfl, ?pc, Frame.refl.writePc _⟩⟩
  case decodes => exact decode_of_selects (r := ⟨.jp, 0xF000, 0x1000⟩) (by decide) hop
  case pc => rw [State.writePc_pc, Nat.mod_eq_of_lt nnn.isLt]

/-- Settles O20: the sum is written to PC and to nothing else. -/
theorem jpV0AddsV0 : Obligations.JpV0AddsV0 :=
  fun s _ => ⟨_, rfl, s.writePc_pc _, Frame.refl.writePc _⟩

end Sys2Proof.Machine
end

section
/-! SUPPORT. The ALU (42_alu.md): what an instruction leaves that writes V[x], without and with a flag, and the flags
and results as numbers. -/

namespace Sys2Proof.Machine

variable {s : State} {i : Instr} {x r : Reg} {b : Byte} {flag : Bool} {n m : Nat}

/-! ### Registers after a write -/

theorem State.readV_writeWithFlag_vf : (s.writeWithFlag x b flag).readV Reg.vf = flagByte flag := by
  rw [State.readV_writeWithFlag, if_pos rfl]

theorem State.readV_writeWithFlag_same (h : x ≠ Reg.vf) : (s.writeWithFlag x b flag).readV x = b := by
  rw [State.readV_writeWithFlag, if_neg h, if_pos rfl]

theorem State.readV_writeWithFlag_of_ne (hx : r ≠ x) (hf : r ≠ Reg.vf) :
    (s.writeWithFlag x b flag).readV r = s.readV r := by
  rw [State.readV_writeWithFlag, if_neg hf, if_neg hx]

/-- An instruction that writes `b` to V[x] and no flag: V[x] holds `b`, and no other register changes. -/
theorem exec_writeV_effect (hx : exec i s = .next ((s.writeV x b).advance 2)) :
    ∃ t, exec i s = .next t ∧ t.readV x = b ∧ (∀ r, r ≠ x → t.readV r = s.readV r) ∧ Frame [.v, .pc] s t := by
  refine ⟨_, hx, ?result, fun r hr => ?others, (Frame.refl.writeV _ _).advance _⟩
  case result => rw [State.readV_advance, State.readV_writeV, if_pos rfl]
  case others => rw [State.readV_advance, State.readV_writeV, if_neg hr]

/-- An instruction that writes `b` with a flag: V[x] unless x = 15, then VF, and no other register (R171). -/
theorem exec_writeWithFlag_effect (hx : exec i s = .next ((s.writeWithFlag x b flag).advance 2))
    (hb : b.toNat = n) (hflag : (flagByte flag).toNat = m) :
    ∃ t, exec i s = .next t ∧ (x ≠ Reg.vf → (t.readV x).toNat = n) ∧ (t.readV Reg.vf).toNat = m ∧
      (∀ r, r ≠ x → r ≠ Reg.vf → t.readV r = s.readV r) ∧ Frame [.v, .pc] s t := by
  refine ⟨_, hx, fun h => ?result, ?flag, fun r hr hf => ?others, (Frame.refl.writeWithFlag _ _ _).advance _⟩
  case result => rw [State.readV_advance, State.readV_writeWithFlag_same h, hb]
  case flag => rw [State.readV_advance, State.readV_writeWithFlag_vf, hflag]
  case others => rw [State.readV_advance, State.readV_writeWithFlag_of_ne hr hf]

/-! ### The flags as numbers -/

theorem carryOut_toNat (a b : Byte) :
    (flagByte (carryOut a b)).toNat = if 255 < a.toNat + b.toNat then 1 else 0 := by
  simp only [flagByte_toNat, carryOut, decide_eq_true_eq, gt_iff_lt]

theorem noBorrow_toNat (a b : Byte) : (flagByte (noBorrow a b)).toNat = if b.toNat ≤ a.toNat then 1 else 0 := by
  simp only [flagByte_toNat, noBorrow, decide_eq_true_eq, ge_iff_le]

theorem flagByte_getLsbD_toNat (a : Byte) (k : Nat) : (flagByte (a.getLsbD k)).toNat = a.toNat / 2 ^ k % 2 := by
  rw [← Nat.toNat_testBit, BitVec.testBit_toNat, flagByte_toNat]
  exact (Bool.cond_eq_ite ..).symm

theorem shiftedOutRight_toNat (a : Byte) : (flagByte (shiftedOutRight a)).toNat = a.toNat % 2 := by
  rw [shiftedOutRight, flagByte_getLsbD_toNat, Nat.pow_zero, Nat.div_one]

theorem shiftedOutLeft_toNat (a : Byte) : (flagByte (shiftedOutLeft a)).toNat = a.toNat / 128 := by
  rw [shiftedOutLeft, flagByte_getLsbD_toNat]
  have := a.isLt
  omega

/-! ### The results as numbers -/

theorem byte_toNat_sub (a b : Byte) : (a - b).toNat = (a.toNat + 256 - b.toNat) % 256 := by
  rw [BitVec.toNat_sub]
  have := b.isLt
  omega

/-! ### The statements -/

/-- Settles O24: each writes V[x] by `writeV` and no flag, and a bit of the result is the operation on the bits. -/
theorem copyAndLogicWriteOnlyVx : Obligations.CopyAndLogicWriteOnlyVx := by
  intro s x y
  refine ⟨exec_writeV_effect rfl, ?or, ?and, ?xor⟩
  case or =>
    obtain ⟨t, hx, hv, hrest⟩ := exec_writeV_effect (s := s) (i := .orReg x y) rfl
    exact ⟨t, hx, fun k _ => by rw [hv, BitVec.getLsbD_or], hrest⟩
  case and =>
    obtain ⟨t, hx, hv, hrest⟩ := exec_writeV_effect (s := s) (i := .andReg x y) rfl
    exact ⟨t, hx, fun k _ => by rw [hv, BitVec.getLsbD_and], hrest⟩
  case xor =>
    obtain ⟨t, hx, hv, hrest⟩ := exec_writeV_effect (s := s) (i := .xorReg x y) rfl
    exact ⟨t, hx, fun k _ => by rw [hv, BitVec.getLsbD_xor], hrest⟩

/-- Settles O25: the sum is written with its carry. -/
theorem addRegCarriesIntoVf : Obligations.AddRegCarriesIntoVf :=
  fun _ _ _ => exec_writeWithFlag_effect rfl (BitVec.toNat_add _ _) (carryOut_toNat _ _)

/-- Settles O26: both write a difference with the comparison of its operands; 8xy7 takes them the other way round. -/
theorem subtractionsSetVfWhenNoBorrow : Obligations.SubtractionsSetVfWhenNoBorrow :=
  fun _ _ _ => ⟨exec_writeWithFlag_effect rfl (byte_toNat_sub _ _) (noBorrow_toNat _ _),
    exec_writeWithFlag_effect rfl (byte_toNat_sub _ _) (noBorrow_toNat _ _)⟩

/-- Settles O27: a shift by one halves or doubles V[x], and the flag is its bit 0 or its bit 7. -/
theorem shiftsMoveVxByOne : Obligations.ShiftsMoveVxByOne := by
  intro s x y
  have hshr : (s.readV x >>> 1).toNat = (s.readV x).toNat / 2 := by
    rw [BitVec.toNat_ushiftRight, Nat.shiftRight_one]
  have hshl : (s.readV x <<< 1).toNat = (s.readV x).toNat * 2 % 256 := by
    rw [BitVec.toNat_shiftLeft, Nat.shiftLeft_eq, Nat.pow_one]
  exact ⟨exec_writeWithFlag_effect rfl hshr (shiftedOutRight_toNat _),
    exec_writeWithFlag_effect rfl hshl (shiftedOutLeft_toNat _)⟩

/-- Settles O22: the row of top digit 6 is LD_IMM's, and V[x] is the one register written. -/
theorem ldImmLoadsTheImmediate : Obligations.LdImmLoadsTheImmediate := by
  refine ⟨fun op hop => ?decodes,
    fun s x nn => ⟨_, rfl, fun r => s.readV_writeV x r nn, (Frame.refl.writeV _ _).advance _⟩⟩
  case decodes => exact decode_of_selects (r := ⟨.ldImm, 0xF000, 0x6000⟩) (by decide) hop

/-- Settles O23: the row of top digit 7 is ADD_IMM's, and the 8-bit sum is written to V[x] alone. -/
theorem addImmWrapsWithoutFlag : Obligations.AddImmWrapsWithoutFlag := by
  refine ⟨fun op hop => ?decodes, fun s x nn => ?adds⟩
  case decodes => exact decode_of_selects (r := ⟨.addImm, 0xF000, 0x7000⟩) (by decide) hop
  case adds =>
    obtain ⟨t, hx, hv, hrest⟩ := exec_writeV_effect (s := s) (i := .addImm x nn) rfl
    exact ⟨t, hx, by rw [hv, BitVec.toNat_add], hrest⟩

end Sys2Proof.Machine
end

section
/-! SUPPORT. Index register and memory (43_index_memory.md): what an instruction leaves that writes I, and what one
leaves that stores a list of bytes at I or loads registers from there. -/

namespace Sys2Proof.Machine

variable {s : State} {i : Instr} {n : Nat} {bs : List Byte}

/-! ### Writing I, storing and loading at I -/

/-- An instruction that writes an address of the array to I: I holds it unreduced (R24). -/
theorem exec_writeI_effect (hx : exec i s = .next ((s.writeI n).advance 2)) (hn : n < 4096) :
    ∃ t, exec i s = .next t ∧ t.i.toNat = n ∧ Frame [.i, .pc] s t := by
  refine ⟨_, hx, ?index, (Frame.refl.writeI _).advance _⟩
  case index => rw [State.advance_i, State.writeI_i, Nat.mod_eq_of_lt hn]

/-- An instruction that stores `bs` at I: each byte stands at its own offset from I, also where the block wraps (D1,
log 1), and every byte at no such offset is as before. -/
theorem exec_memWriteList_effect (hx : exec i s = .next ((s.memWriteList (s.indexAddr 0) bs).advance 2))
    (hlen : bs.length ≤ 4096) :
    ∃ t, exec i s = .next t ∧ (∀ k, (hk : k < bs.length) → t.memRead (s.i.toNat + k) = bs[k]) ∧
      (∀ a, (∀ k < bs.length, a % 4096 ≠ (s.i.toNat + k) % 4096) → t.memRead a = s.memRead a) ∧
      Frame [.mem, .pc] s t := by
  refine ⟨_, hx, fun k hk => ?stored, fun a ha => ?others, (Frame.refl.memWriteList _ _).advance _⟩
  case stored => exact State.memRead_memWriteList_at _ _ _ _ hk hlen
  case others => exact State.memRead_memWriteList_other _ _ _ _ ha

/-- Fx65 leaves in each register up to V[x] the byte at its own offset from I, and the others as they were. -/
theorem readV_of_exec_ldRegs {t : State} {x : Reg} (h : exec (.ldRegs x) s = .next t) (r : Reg) :
    t.readV r = if r.toNat ≤ x.toNat then s.memRead (s.i.toNat + r.toNat) else s.readV r := by
  cases h
  rw [State.readV_advance, State.readV_loadRegs _ _ x.isLt]
  simp only [Nat.lt_succ_iff]

/-! ### The flag and the digits as numbers -/

theorem indexOverflow_toNat (a : Word) (b : Byte) :
    (flagByte (indexOverflow a b)).toNat = if 0x0FFF < a.toNat + b.toNat then 1 else 0 := by
  simp only [flagByte_toNat, indexOverflow, decide_eq_true_eq, gt_iff_lt]

@[simp] theorem bcdDigits_length (b : Byte) : (bcdDigits b).length = 3 := rfl

/-- A number below 256, as each decimal digit of a byte is, fits a byte. -/
theorem toNat_byte_of_eq {b : Byte} {m : Nat} (hb : b = BitVec.ofNat 8 m) (hm : m < 256) : b.toNat = m := by
  rw [hb, BitVec.toNat_ofNat, Nat.mod_eq_of_lt hm]

/-! ### The statements -/

/-- Settles O28: the row of top digit A is LD_I's, and I written from 12 bits loses none of them. -/
theorem ldILoadsTheAddress : Obligations.LdILoadsTheAddress := by
  refine ⟨fun op hop => ?decodes, fun s nnn => exec_writeI_effect rfl nnn.isLt⟩
  case decodes => exact decode_of_selects (r := ⟨.ldI, 0xF000, 0xA000⟩) (by decide) hop

/-- Settles O30: the row of digits F and 29 is LD_F's, and five times a byte is at most 1275, so I holds all of it. -/
theorem ldFPointsAtTheGlyph : Obligations.LdFPointsAtTheGlyph := by
  refine ⟨fun op hop => ?decodes, fun s x => exec_writeI_effect rfl ?address⟩
  case decodes => exact decode_of_selects (r := ⟨.ldF, 0xF0FF, 0xF029⟩) (by decide) hop
  case address =>
    have := (s.readV x).isLt
    omega

/-- Settles O29: I and the flag are both computed from the state before, so the old VF is the addend for x = 15. -/
theorem addIKeepsTwelveBitsAndFlagsOverflow : Obligations.AddIKeepsTwelveBitsAndFlagsOverflow := by
  intro s x
  refine ⟨_, rfl, ?index, ?flag, fun r hr => ?others, ((Frame.refl.writeI _).writeV _ _).advance _⟩
  case index => rw [State.advance_i, State.writeV_i, State.writeI_i]
  case flag => rw [State.readV_advance, State.readV_writeV, if_pos rfl, indexOverflow_toNat]
  case others => rw [State.readV_advance, State.readV_writeV, if_neg hr, State.readV_writeI]

/-- Settles O31: the three digits are stored at I; each is below 256, so its byte holds it unreduced. -/
theorem ldBStoresThreeDecimalDigits : Obligations.LdBStoresThreeDecimalDigits := by
  intro s x
  obtain ⟨t, hx, hstored, hothers, hframe⟩ := exec_memWriteList_effect (s := s) (i := .ldB x) rfl (by simp)
  have hbyte := (s.readV x).isLt
  refine ⟨t, hx, ?hundreds, ?tens, ?ones, hothers, hframe⟩
  case hundreds => exact toNat_byte_of_eq (hstored 0 (by simp)) (by omega)
  case tens => exact toNat_byte_of_eq (hstored 1 (by simp)) (by omega)
  case ones => exact toNat_byte_of_eq (hstored 2 (by simp)) (by omega)

/-- Settles O32: the registers up to V[x] are stored at I, V[r] at offset r (`memRead_of_exec_stRegs`). -/
theorem stRegsStoresV0ToVx : Obligations.StRegsStoresV0ToVx := by
  intro s x
  have hlen := s.regsUpTo_length x
  have hx16 := x.isLt
  obtain ⟨t, hx, -, hothers, hframe⟩ := exec_memWriteList_effect (s := s) (i := .stRegs x) rfl (by omega)
  exact ⟨t, hx, fun r hr => memRead_of_exec_stRegs hx hr, fun a ha => hothers a fun k hk => ha k (by omega), hframe⟩

/-- Settles O33: the registers are loaded by `readV_of_exec_ldRegs`, and loading writes no other part. -/
theorem ldRegsLoadsV0ToVx : Obligations.LdRegsLoadsV0ToVx :=
  fun _ _ => ⟨_, rfl, readV_of_exec_ldRegs rfl, (Frame.refl.loadRegs _).advance _⟩

/-- Settles O34: Fx55 leaves I unchanged and the registers between are no part of memory, so Fx65 reads V[r] where Fx55
has stored it. -/
theorem storedRegistersLoadBack : Obligations.StoredRegistersLoadBack := by
  intro s t u x w hstore hload r hr
  have hi : t.i = s.i := (exec_frame hstore).i (by simp [mayWrite])
  calc u.readV r
    _ = t.memRead (t.i.toNat + r.toNat) := by rw [readV_of_exec_ldRegs hload, if_pos hr]; rfl
    _ = t.memRead (s.i.toNat + r.toNat) := by rw [hi]
    _ = s.readV r := memRead_of_exec_stRegs hstore hr

end Sys2Proof.Machine
end

section
/-! SUPPORT. Random number, keypad and timers (44_random_keys_timers.md), and the two inputs, KEY and the random input,
that the other instructions neither read nor write (R217, R256). -/

namespace Sys2Proof.Machine

variable {s t : State} {i : Instr} {x : Reg} {key : BitVec 16} {n : Nat}

/-! ### The instructions, one by one -/

/-- Settles O38: Fx0A branches on the least pressed key (`State.leastKey_none`, `State.leastKey_some`), a number below
16 that V[x] holds unreduced. -/
theorem ldVxKWaitsThenReportsTheLeastKey : Obligations.LdVxKWaitsThenReportsTheLeastKey := by
  refine ⟨fun s x hnone => ?waits, fun s x k hk hpressed hleast => ?reports⟩
  case waits => exact exec_ldVxK_of_leastKey_eq_none (s.leastKey_none.2 hnone)
  case reports =>
    have hx := exec_ldVxK_of_leastKey_eq_some (x := x) ((s.leastKey_some k).2 ⟨hk, hpressed, hleast⟩)
    refine ⟨_, hx, ?key, fun r hr => ?others, State.advance_pc _ 2, (Frame.refl.writeV _ _).advance _⟩
    case key =>
      rw [State.readV_advance, State.readV_writeV, if_pos rfl]
      exact toNat_byte_of_eq rfl (by omega)
    case others => rw [State.readV_advance, State.readV_writeV, if_neg hr]

/-- Settles O36: V[x] is a conjunction with the immediate, whatever the free byte is (D16, log 16). -/
theorem rndMasksTheFreeByte : Obligations.RndMasksTheFreeByte := by
  intro s x nn
  have hv : ((s.sampleRnd.2.writeV x (s.sampleRnd.1 &&& nn)).advance 2).readV x = Config.rnd8 s.rndIndex &&& nn := by
    rw [State.readV_advance, State.readV_writeV, if_pos rfl, State.sampleRnd]
  refine ⟨_, rfl, hv, ?bound, fun k _ hk => ?masked, fun r hr => ?others, rfl,
    (Frame.refl.sampleRnd.writeV _ _).advance _⟩
  case bound =>
    rw [hv, BitVec.toNat_and]
    exact Nat.and_le_right
  case masked => rw [hv, BitVec.getLsbD_and, hk, Bool.and_false]
  case others => rw [State.readV_advance, State.readV_writeV, if_neg hr, State.readV_sampleRnd]

/-- Settles O37: both are conditional skips, which write PC alone; ExA1 tests the negated key. -/
theorem keySkipsTestTheNamedKey : Obligations.KeySkipsTestTheNamedKey := by
  intro s x
  refine ⟨⟨_, rfl, Frame.refl.skipIf _, State.skipIf_pc _ _⟩, ⟨_, rfl, Frame.refl.skipIf _, ?sknp⟩⟩
  case sknp => simp only [State.skipIf_pc, State.keyNamed, Bool.not_eq_true', ← Bool.not_eq_true, ite_not]

/-- Settles O39: Fx07 writes DT to V[x] by `writeV`, and the other two set one timer to V[x]. -/
theorem timerInstructionsMoveTheTimers : Obligations.TimerInstructionsMoveTheTimers :=
  fun s x => ⟨⟨_, rfl, fun r => s.readV_writeV x r s.dt, (Frame.refl.writeV _ _).advance _⟩,
    ⟨_, rfl, rfl, (Frame.refl.setDt _).advance _⟩, ⟨_, rfl, rfl, (Frame.refl.setSt _).advance _⟩⟩

/-! ### The inputs -/

/-- The state with other values in KEY and in the counter that selects the next random byte. -/
def State.withInputs (s : State) (key : BitVec 16) (n : Nat) : State :=
  { s with key := key, rndIndex := n }

theorem State.memWriteList_withInputs (s : State) (a : Nat) (bs : List Byte) :
    (s.withInputs key n).memWriteList a bs = (s.memWriteList a bs).withInputs key n := by
  induction bs generalizing s a with
  | nil => rfl
  | cons b bs ih => exact ih (s.memWrite a b) (a + 1)

theorem State.loadRegs_withInputs (s : State) (k : Nat) :
    (s.withInputs key n).loadRegs k = (s.loadRegs k).withInputs key n := by
  induction k with
  | zero => rfl
  | succ k ih =>
    rw [State.loadRegs, ih]
    rfl

theorem State.push_withInputs (s : State) (w : Word) :
    (s.withInputs key n).push w = (s.push w).map (·.withInputs key n) := by
  by_cases h : s.sp.val < 16 <;> simp [State.push, State.withInputs, h]

theorem State.pop_withInputs (s : State) :
    (s.withInputs key n).pop = s.pop.map fun popped => (popped.1, popped.2.withInputs key n) := by
  by_cases h : 0 < s.sp.val <;> simp [State.pop, State.withInputs, h]

/-- An instruction other than Cxnn does the same whatever the random input holds next and, unless it is one of the three
key instructions, whatever KEY holds; it passes both on. -/
theorem exec_withInputs (hx : exec i s = .next t)
    (hkey : key = s.key ∨ (∀ x, i ≠ .skp x) ∧ (∀ x, i ≠ .sknp x) ∧ ∀ x, i ≠ .ldVxK x)
    (hrnd : ∀ x nn, i ≠ .rnd x nn) : exec i (s.withInputs key n) = .next (t.withInputs key n) := by
  cases i with
  | rnd x nn => exact absurd rfl (hrnd x nn)
  | skp x | sknp x =>
    obtain rfl : key = s.key := by simpa using hkey
    cases hx
    rfl
  | ldVxK x =>
    obtain rfl : key = s.key := by simpa using hkey
    obtain ⟨hk, rfl⟩ | ⟨k, hk, rfl⟩ := exec_ldVxK_cases hx
    · exact exec_ldVxK_of_leastKey_eq_none hk
    · exact exec_ldVxK_of_leastKey_eq_some hk
  | ret =>
    rw [exec, execRet, State.pop_withInputs]
    cases hp : s.pop with
    | none =>
      rw [exec_ret_of_pop_eq_none hp] at hx
      cases hx
      rfl
    | some popped =>
      rw [exec_ret_of_pop_eq_some hp] at hx
      cases hx
      rfl
  | call nnn =>
    have hpc : (s.withInputs key n).pc = s.pc := rfl
    rw [exec, execCall, hpc, State.push_withInputs]
    cases hp : s.push s.pc with
    | none =>
      rw [exec_call_of_push_eq_none hp] at hx
      cases hx
      rfl
    | some pushed =>
      rw [exec_call_of_push_eq_some hp] at hx
      cases hx
      rfl
  | ldB x | stRegs x =>
    cases hx
    exact congrArg (fun u => Host.Outcome.next (State.advance u 2)) (s.memWriteList_withInputs _ _)
  | ldRegs x =>
    cases hx
    exact congrArg (fun u => Host.Outcome.next (State.advance u 2)) (s.loadRegs_withInputs _)
  | _ =>
    cases hx
    rfl

/-- Cxnn is the one instruction that advances the counter of random bytes. -/
theorem rnd_not_mem_mayWrite (h : ∀ x nn, i ≠ .rnd x nn) : .rnd ∉ mayWrite i := by
  cases i with
  | rnd x nn => exact absurd rfl (h x nn)
  | _ => simp [mayWrite]

theorem key_not_mem_mayWrite (i : Instr) : .key ∉ mayWrite i := by
  cases i <;> simp [mayWrite]

/-- Settles O47: each clause is `exec_withInputs` with the other input left as it is, and the frame says that the
instruction leaves it so. Cxnn, which moves the counter, does not read KEY. -/
theorem inputsReachOnlyTheirInstructions : Obligations.InputsReachOnlyTheirInstructions := by
  intro i s t hx
  have f := exec_frame hx
  have hkey : t.key = s.key := f.key (key_not_mem_mayWrite i)
  refine ⟨hkey, fun key hskp hsknp hldVxK => ?keyUnread, fun n hrnd => ?rndUnread⟩
  case keyUnread =>
    by_cases hrnd : ∀ x nn, i ≠ .rnd x nn
    · have hcount : t.rndIndex = s.rndIndex := f.rnd (rnd_not_mem_mayWrite hrnd)
      calc exec i (s.withInputs key s.rndIndex)
        _ = .next (t.withInputs key s.rndIndex) := exec_withInputs hx (.inr ⟨hskp, hsknp, hldVxK⟩) hrnd
        _ = .next (t.withInputs key t.rndIndex) := by rw [hcount]
    · obtain ⟨x, nn, rfl⟩ : ∃ x nn, i = .rnd x nn := by simpa using hrnd
      cases hx
      rfl
  case rndUnread =>
    calc exec i (s.withInputs s.key n)
      _ = .next (t.withInputs s.key n) := exec_withInputs hx (.inl rfl) hrnd
      _ = .next (t.withInputs t.key n) := by rw [hkey]

end Sys2Proof.Machine
end

section
/-! SUPPORT. Display (45_display.md): the cells a sprite covers, and what 00E0 and Dxyn leave in the framebuffer and VF. -/

namespace Sys2Proof.Machine

variable {s t : State} {x y : Reg} {n : Nibble}

/-! ### The covered cells -/

/-- The image R233 speaks of (`SpriteCovers`) is the list of cells that the loops of R231 flip. -/
theorem mem_spriteCells_iff_spriteCovers (s : State) (x0 y0 n p : Nat) :
    p ∈ spriteCells x0 y0 s.spriteRow n ↔ SpriteCovers s x0 y0 n p :=
  mem_spriteCells x0 y0 n p s.spriteRow

theorem lt_of_mem_spriteCells {x0 y0 n p : Nat} {rows : Nat → Byte} (h : p ∈ spriteCells x0 y0 rows n) : p < 2048 := by
  obtain ⟨r, c, -, -, -, rfl⟩ := (mem_spriteCells x0 y0 n p rows).1 h
  exact cellOf_lt _ _

/-- A sprite's cells depend on I and memory alone. -/
theorem spriteCovers_congr (hi : t.i = s.i) (hmem : ∀ a, t.memRead a = s.memRead a) (x0 y0 n p : Nat) :
    SpriteCovers t x0 y0 n p ↔ SpriteCovers s x0 y0 n p := by
  simp only [SpriteCovers, hi, hmem]

/-! ### What Dxyn leaves in the framebuffer and VF -/

/-- The loops of R231 on a framebuffer, with no collision yet: `Canvas.flips_spec` at the sprite's cells, which are
distinct (R233). -/
theorem Canvas.drawRows_spec (fb : Framebuffer) (x0 y0 : Nat) (rows : Nat → Byte) (n : Nibble) :
    (∀ p < 2048, (Canvas.drawRows ⟨fb, false⟩ x0 y0 rows n.toNat).fb.getPixel p =
      (fb.getPixel p ^^ decide (p ∈ spriteCells x0 y0 rows n.toNat))) ∧
    (Canvas.drawRows ⟨fb, false⟩ x0 y0 rows n.toNat).hit = (spriteCells x0 y0 rows n.toNat).any fb.getPixel := by
  have hn := n.isLt
  rw [Canvas.drawRows_eq_flips]
  exact Canvas.flips_spec _ _ (spriteCells_nodup x0 y0 n.toNat rows (by omega)) fun _ => lt_of_mem_spriteCells

theorem flagByte_eq_one_iff (flag : Bool) : flagByte flag = 0x01#8 ↔ flag = true := by
  cases flag <;> decide

theorem getPixel_ne_iff_of_exec_drw (h : exec (.drw x y n) s = .next t) {p : Nat} (hp : p < 2048) :
    t.fb.getPixel p ≠ s.fb.getPixel p ↔ SpriteCovers s (s.readV x).toNat (s.readV y).toNat n.toNat p := by
  cases h
  rw [← mem_spriteCells_iff_spriteCovers, State.advance_fb, State.writeV_fb, (Canvas.drawRows_spec ..).1 p hp]
  cases s.fb.getPixel p <;> simp

theorem readV_vf_eq_one_iff_of_exec_drw (h : exec (.drw x y n) s = .next t) :
    t.readV Reg.vf = 0x01#8 ↔
      ∃ p < 2048, SpriteCovers s (s.readV x).toNat (s.readV y).toNat n.toNat p ∧ s.fb.getPixel p = true := by
  cases h
  rw [State.readV_advance, State.readV_writeV, if_pos rfl, flagByte_eq_one_iff, (Canvas.drawRows_spec ..).2,
    List.any_eq_true]
  refine exists_congr fun p => ⟨fun ⟨hp, hon⟩ => ?_, fun ⟨_, hp, hon⟩ => ?_⟩
  · exact ⟨lt_of_mem_spriteCells hp, (mem_spriteCells_iff_spriteCovers ..).1 hp, hon⟩
  · exact ⟨(mem_spriteCells_iff_spriteCovers ..).2 hp, hon⟩

/-! ### The statements -/

/-- Settles O42: the loops flip each covered cell once, and VF is written last, as a flag. -/
theorem drwXorsTheSpriteImage : Obligations.DrwXorsTheSpriteImage := by
  intro s x y n
  obtain ⟨t, h⟩ : ∃ t, exec (.drw x y n) s = .next t := ⟨_, rfl⟩
  obtain ⟨flag, hflag⟩ := exec_flag h rfl
  refine ⟨t, h, fun p hp => getPixel_ne_iff_of_exec_drw h hp, readV_vf_eq_one_iff_of_exec_drw h,
    hflag ▸ flagByte_zero_or_one flag, fun r hr => exec_readV_other h rfl fun _ => hr, ?drawFlag, ?pc, exec_frame h⟩
  case drawFlag =>
    cases h
    rfl
  case pc =>
    cases h
    exact State.advance_pc _ 2

/-- Settles O43: the first draw changes nothing the covered cells depend on, so the second inverts the same cells, and
it finds on what the first found off. -/
theorem drawingTwiceRestoresTheFramebuffer : Obligations.DrawingTwiceRestoresTheFramebuffer := by
  intro s t u x y n hx hy hst htu
  have f := exec_frame hst
  have hreg : ∀ r, r ≠ Reg.vf → t.readV r = s.readV r := fun r hr => exec_readV_other hst rfl fun _ => hr
  have hcovers : ∀ p, SpriteCovers t (t.readV x).toNat (t.readV y).toNat n.toNat p ↔
      SpriteCovers s (s.readV x).toNat (s.readV y).toNat n.toNat p := by
    intro p
    rw [hreg x hx, hreg y hy]
    exact spriteCovers_congr (f.i (by simp [mayWrite])) (f.mem (by simp [mayWrite])) _ _ _ p
  refine ⟨Framebuffer.ext_getPixel _ _ fun p hp => ?restored, ?collision⟩
  case restored =>
    have hsame : u.fb.getPixel p ≠ t.fb.getPixel p ↔ t.fb.getPixel p ≠ s.fb.getPixel p := by
      rw [getPixel_ne_iff_of_exec_drw htu hp, getPixel_ne_iff_of_exec_drw hst hp, hcovers]
    by_cases hkept : t.fb.getPixel p = s.fb.getPixel p
    · rw [not_ne_iff.1 (mt hsame.1 (not_ne_iff.2 hkept)), hkept]
    · rw [Bool.eq_not.2 (hsame.2 hkept), Bool.eq_not.2 hkept, Bool.not_not]
  case collision =>
    rw [readV_vf_eq_one_iff_of_exec_drw htu]
    refine exists_congr fun p => and_congr_right fun hp => ?_
    rw [hcovers]
    refine and_congr_right fun hcov => ?_
    rw [Bool.eq_not.2 ((getPixel_ne_iff_of_exec_drw hst hp).2 hcov), Bool.not_eq_true']

/-- Settles O41: the framebuffer is the blank one (`Framebuffer.blank_getPixel`), and so is each cell of the snapshot. -/
theorem clsClearsEveryCell : Obligations.ClsClearsEveryCell := by
  intro s
  refine ⟨_, rfl, fun p _ => Framebuffer.blank_getPixel p, ?snapshot, rfl, State.advance_pc _ 2,
    (Frame.refl.setDisplay _ _).advance _⟩
  case snapshot =>
    simp only [State.advance_fb, Framebuffer.snapshot]
    exact List.eq_replicate_iff.2 ⟨by simp, by simp [Framebuffer.blank_getPixel]⟩

end Sys2Proof.Machine
end

section
/-! SUPPORT. The host's ports (46_host_operations.md): what `load` and `set_key` answer on each side of their bound, the
cells of the snapshot, and that a step and every port but `load` and `take_draw_flag` keep DF. -/

namespace Sys2Proof.Machine

variable {s t : State} {rom : List Byte} {index : Nat} {pressed : Bool} {op : HostOp}

/-! ### `load` -/

theorem State.load_of_fits (s : State) (h : rom.length ≤ 3584) :
    s.load rom = (.ok, s.resetCore.memWriteList 0x200 rom) :=
  if_neg (by simp only [Config.progBase, Config.memSize]; omega)

theorem State.load_of_overflows (s : State) (h : 3584 < rom.length) : s.load rom = (.loadError, s) :=
  if_pos (by simp only [Config.progBase, Config.memSize]; omega)

/-- The reset of a load keeps only the model's own counter (log 16). -/
theorem Frame.resetCore {c : List Part} (s : State) (h : .rnd ∈ c) : Frame c State.reset s.resetCore :=
  { Frame.refl (s := State.reset) with rnd := fun n => absurd h n }

/-- A list written inside the array, without a wrap, stands at its addresses, and the other bytes are as before. -/
theorem State.memRead_memWriteList_of_fits (s : State) {a base : Nat} {bs : List Byte} (ha : a < 4096)
    (hfit : base + bs.length ≤ 4096) : (s.memWriteList base bs).memRead a =
      if base ≤ a ∧ a < base + bs.length then bs.getD (a - base) 0 else s.memRead a := by
  split
  case isTrue hin =>
    obtain ⟨k, rfl⟩ := Nat.exists_eq_add_of_le hin.1
    have hk : k < bs.length := by omega
    rw [State.memRead_memWriteList_at _ _ _ _ hk (by omega), Nat.add_sub_cancel_left, List.getD_eq_getElem _ _ hk]
  case isFalse hout =>
    exact State.memRead_memWriteList_other _ _ _ _ fun k hk => by omega

/-- Settles O52: a ROM that fits is written over the reset state without a wrap (`State.memRead_memWriteList_of_fits`),
and besides memory only the model's own counter can differ from reset (`Frame.resetCore`). -/
theorem loadResetsAndPlacesTheRom : Obligations.LoadResetsAndPlacesTheRom := by
  refine ⟨fun s rom hfits => ?loaded, fun s rom => s.load_of_overflows⟩
  case loaded =>
    exact ⟨_, s.load_of_fits hfits, fun a ha => s.resetCore.memRead_memWriteList_of_fits ha (by omega),
      (Frame.resetCore s (by decide)).memWriteList _ _ (by decide)⟩

/-! ### `set_key` -/

theorem State.setKey_of_le (s : State) (h : index ≤ 15) :
    s.setKey index pressed = (.ok, { s with key := setKeyBit s.key index pressed }) :=
  if_neg (Nat.not_lt.2 h)

theorem State.setKey_of_gt (s : State) (h : 15 < index) : s.setKey index pressed = (.keyIndexError, s) :=
  if_pos h

theorem getLsbD_setKeyBit (key : BitVec 16) (pressed : Bool) {j : Nat} (hj : j < 16) :
    (setKeyBit key index pressed).getLsbD j = if j = index then pressed else key.getLsbD j := by
  by_cases h : j = index
  · subst h
    cases pressed <;> simp [setKeyBit, hj]
  · cases pressed <;> simp [setKeyBit, h, hj]

theorem Frame.setKeys {c : List Part} (f : Frame c s t) (key : BitVec 16) (h : .key ∈ c) :
    Frame c s { t with key := key } :=
  { f with key := fun n => absurd h n }

/-- Settles O53: the bit at the index is overwritten with the value given (`getLsbD_setKeyBit`). -/
theorem setKeyWritesOneBit : Obligations.SetKeyWritesOneBit := by
  refine ⟨fun s k pressed hk => ?valid, fun s k pressed => s.setKey_of_gt⟩
  case valid =>
    exact ⟨_, s.setKey_of_le hk, fun j hj => getLsbD_setKeyBit s.key pressed hj, Frame.refl.setKeys _ (by decide)⟩

/-! ### The display -/

/-- Cell `cy * 64 + cx` is the pixel in column `cx` of row `cy` (R33). -/
theorem Framebuffer.getPixel_row_column (fb : Framebuffer) {cx cy : Nat} (hy : cy < 32) (hx : cx < 64) :
    fb.getPixel (cy * 64 + cx) = (fb[cy]'hy).getLsbD cx := by
  have hrow : (cy * 64 + cx) / 64 % 32 = cy := by omega
  have hcol : (cy * 64 + cx) % 64 = cx := by omega
  simp only [Framebuffer.getPixel, hrow, hcol]

@[simp] theorem Framebuffer.snapshot_length (fb : Framebuffer) : fb.snapshot.length = 2048 := by
  simp [Framebuffer.snapshot]

theorem Framebuffer.snapshot_getElem? (fb : Framebuffer) {p : Nat} (hp : p < 2048) :
    fb.snapshot[p]? = some (fb.getPixel p) := by
  simp [Framebuffer.snapshot, hp]

/-- Settles O54: the snapshot lists `getPixel` of each cell in index order. -/
theorem snapshotIsTheCellsInIndexOrder : Obligations.SnapshotIsTheCellsInIndexOrder := by
  refine fun s => ⟨⟨s.fb.snapshot, rfl, s.fb.snapshot_length, fun cy hy cx hx => ?cell⟩, rfl, rfl⟩
  case cell => rw [s.fb.snapshot_getElem? (by omega), s.fb.getPixel_row_column hy hx]

/-! ### The draw flag -/

theorem Frame.setDf {c : List Part} (f : Frame c s t) (b : Bool) (h : .df ∈ c) : Frame c s { t with df := b } :=
  { f with df := fun n => absurd h n }

/-- 00E0 and Dxyn set DF, and no other instruction writes it (R34). -/
theorem exec_keeps_df {i : Instr} (hx : exec i s = .next t) (hdf : s.df = true) : t.df = true := by
  cases i with
  | cls | drw x y n =>
    cases hx
    rfl
  | _ => exact ((exec_frame hx).df (by simp [mayWrite])).trans hdf

@[simp] theorem State.endStep_df (s : State) : s.endStep.df = s.df := by
  rw [State.endStep]
  split <;> rfl

theorem step_keeps_df (h : step s = .next t) (hdf : s.df = true) : t.df = true := by
  obtain ⟨-, rfl⟩ | ⟨-, e, -, rfl⟩ | ⟨-, i, u, -, hx, rfl⟩ := step_cases h
  · exact hdf
  · exact hdf
  · rw [State.endStep_df]
    exact exec_keeps_df hx hdf

/-- `load` and `take_draw_flag` apart, a port writes at most KEY. -/
theorem hostOp_frame (hload : ∀ rom, op ≠ .load rom) (htake : op ≠ .takeDrawFlag) :
    Frame [.key] s (hostOp op s).2 := by
  cases op with
  | load rom => exact absurd rfl (hload rom)
  | takeDrawFlag => exact absurd rfl htake
  | setKey index pressed =>
    obtain hk | hk := Nat.lt_or_ge 15 index
    · rw [hostOp, s.setKey_of_gt hk]
      exact Frame.refl
    · rw [hostOp, s.setKey_of_le hk]
      exact Frame.refl.setKeys _ (by decide)
  | displaySnapshot | displayWidth | displayHeight | faultStatus | soundActive => exact Frame.refl

/-- The core's move leaves the state its step leaves. -/
theorem step_of_apply_step {r : Reply} (h : Move.step.apply s = .next (r, t)) : step s = .next t := by
  obtain ⟨u, hu⟩ := stepAlwaysAnswersANextState s
  simp only [Move.apply, hu] at h
  cases h
  exact hu

theorem eq_hostOp_of_apply_host {r : Reply} (h : (Move.host op).apply s = .next (r, t)) : t = (hostOp op s).2 := by
  rw [Move.apply] at h
  injection h with h
  exact (congrArg Prod.snd h).symm

/-- Settles O55: a step keeps DF at 1 (`step_keeps_df`), and the ports other than the two excluded do not write it. -/
theorem takeDrawFlagReadsAndClears : Obligations.TakeDrawFlagReadsAndClears := by
  refine ⟨fun s => ⟨_, rfl, rfl, Frame.refl.setDf _ (by decide)⟩, fun m s t r h htake hload hdf => ?kept⟩
  case kept =>
    cases m with
    | step => exact step_keeps_df (step_of_apply_step h) hdf
    | host op =>
      rw [eq_hostOp_of_apply_host h]
      have f : Frame [.key] s (hostOp op s).2 :=
        hostOp_frame (fun rom e => hload rom (congrArg Move.host e)) fun e => htake (congrArg Move.host e)
      exact (f.df (by decide)).trans hdf

/-! ### The status ports -/

/-- The record is zero while HALT = 0, an invariant of the machine (R257, D17). -/
theorem State.Inv.faultStatus_eq_zero (h : s.Inv) (hs : s.halt = false) : s.faultStatus = ⟨false, 0, 0, 0⟩ := by
  obtain ⟨hop, hpc⟩ := h.record hs
  rw [State.faultStatus, hs, h.cause.1 hs, hop, hpc]
  rfl

theorem State.soundActive_eq (s : State) : s.soundActive = decide (0 < s.st.toNat) := by
  rw [State.soundActive, Bool.eq_iff_iff, bne_iff_ne, decide_eq_true_eq, Nat.pos_iff_ne_zero, ne_eq, ne_eq,
    ← BitVec.toNat_inj, BitVec.toNat_zero]

/-- Settles O56: the record is read as it stands, and it is zero by the invariant while HALT = 0. -/
theorem statusPortsReadTheRegisters : Obligations.StatusPortsReadTheRegisters := by
  refine fun s => ⟨rfl, fun hinv hs => ?zero, ?sound⟩
  case zero => rw [hostOp, hinv.faultStatus_eq_zero hs]
  case sound => rw [hostOp, s.soundActive_eq]

end Sys2Proof.Machine
end

section
/-! SUPPORT. Exceptions (60_exceptions.md): fault entry at an illegal opcode and at the two stack bounds, the halted
state under every transition, and the step that waits for a key. -/

namespace Sys2Proof.Machine

variable {s : State} {i : Instr} {cause : FaultCause} {op : Word}

/-! ### Fault entry -/

/-- Fault entry writes its record. -/
theorem State.faulted_raise (s : State) (cause : FaultCause) (op : Word) : Faulted cause op s (s.raise cause op) :=
  ⟨rfl, rfl, rfl, rfl⟩

/-- A step whose instruction raises a fault ends without a tick (R127). -/
theorem step_of_exec_raises (hs : s.halt = false) (hd : decode s.fetch = .ok i)
    (hx : exec i s = .next (s.raise cause op)) : step s = .next (s.raise cause op) := by
  rw [step_of_exec_eq_next hs hd hx, State.endStep_of_halt_eq_true (s.raise_halt cause op)]

theorem exec_ret_of_sp_eq_zero (h : s.sp.val = 0) : exec .ret s = .next (s.raise .stackUnderflow (encode .ret)) := by
  obtain ⟨t, hx⟩ := exec_answers_next .ret s
  obtain ⟨-, rfl⟩ | ⟨k, -, p, hsp, -⟩ := exec_ret_cases hx
  · exact hx
  · omega

/-- An instruction that raises a fault with its own encoding records the opcode that was fetched (log 33): the two are
the same word (`encodeOfDecodeIsTheOpcode`). -/
theorem step_records_of_exec_raises_encode (hs : s.halt = false) (hd : decode s.fetch = .ok i)
    (hx : exec i s = .next (s.raise cause (encode i))) :
    ∃ t, step s = .next t ∧ Faulted cause s.fetch s t ∧ Frame [.record] s t := by
  rw [encodeOfDecodeIsTheOpcode s.fetch i hd] at hx
  exact ⟨_, step_of_exec_raises hs hd hx, s.faulted_raise _ _, Frame.refl.raise _ _⟩

/-- Settles O12: each instruction raises its fault at its stack bound, and the step ends there. -/
theorem stackFaultsWriteOnlyTheRecord : Obligations.StackFaultsWriteOnlyTheRecord :=
  ⟨fun _ _ hs hd hsp => step_records_of_exec_raises_encode hs hd (exec_call_of_sp_eq_sixteen hsp),
    fun _ hs hd hsp => step_records_of_exec_raises_encode hs hd (exec_ret_of_sp_eq_zero hsp)⟩

/-- Settles O11: a step at an opcode that does not decode is fault entry (`step_of_decode_eq_error`). -/
theorem illegalOpcodeRaisesUnknownOpcode : Obligations.IllegalOpcodeRaisesUnknownOpcode :=
  fun s hs hd => ⟨_, step_of_decode_eq_error hs hd, s.faulted_raise _ _, Frame.refl.raise _ _⟩

/-- Settles O16: with SP = 0 a return is fault entry (`exec_ret_of_sp_eq_zero`), which leaves SP and PC. -/
theorem retOnAnEmptyStackUnderflows : Obligations.RetOnAnEmptyStackUnderflows :=
  fun _ hsp => ⟨_, exec_ret_of_sp_eq_zero hsp, rfl, rfl, hsp, rfl, Frame.refl.raise _ _⟩

/-! ### The ends of a run -/

/-- Settles O57: a halted step answers its own state, `take_draw_flag` writes DF alone, and the other ports write at
most KEY (`hostOp_frame`). -/
theorem onlyLoadLeavesTheHaltedState : Obligations.OnlyLoadLeavesTheHaltedState := by
  intro m s t r hs h hload
  cases m with
  | step =>
    have hst : s = t := Host.Outcome.next.inj ((step_of_halt_eq_true hs).symm.trans (step_of_apply_step h))
    subst hst
    exact ⟨hs, rfl, rfl, rfl, rfl⟩
  | host op =>
    rw [eq_hostOp_of_apply_host h]
    obtain rfl | htake := eq_or_ne op .takeDrawFlag
    · exact ⟨hs, rfl, rfl, rfl, rfl⟩
    · have f : Frame [.key] s (hostOp op s).2 := hostOp_frame (fun rom e => hload rom (congrArg Move.host e)) htake
      obtain ⟨hhalt, hcause, hopcode, hfpc⟩ := f.record (by decide)
      exact ⟨hhalt.trans hs, hcause, hopcode, hfpc, f.pc (by decide)⟩

/-- The tick writes none of what a wait rests on: HALT, the opcode at PC, KEY. -/
theorem State.Waiting.tick (h : s.Waiting) : s.tick.Waiting := h

/-- A waiting step is a tick: with no key pressed Fx0A answers its own state (R214). -/
theorem State.Waiting.step_eq_tick (h : s.Waiting) : step s = .next s.tick := by
  obtain ⟨hs, ⟨x, hd⟩, hkey⟩ := h
  exact step_of_exec_completes hs hd (exec_ldVxK_of_leastKey_eq_none (State.leastKey_eq_none_iff_key.2 hkey)) hs

/-- Settles O50: the step is the tick (`State.Waiting.step_eq_tick`), after which the state still waits. -/
theorem waitingStepOnlyTicks : Obligations.WaitingStepOnlyTicks :=
  fun s h => ⟨s.tick, h.step_eq_tick, countDown_toNat s.dt, countDown_toNat s.st,
    Frame.refl.tick (by decide) (by decide), h.tick⟩

end Sys2Proof.Machine
end
